-- ==== Sys2Proof/Word.lean ====
section
/-! DEFINITION. The word types of CORE: the 8-bit byte, the 16-bit word and the 12-bit immediate address
(00_scope.md R12, 30_encoding.md R70). Every value is unsigned; arithmetic is modulo 2^width. -/

namespace Sys2Proof

/-- An 8-bit value: a memory byte, a general register, a timer, the immediate `nn` (R12, R21, R29, R71). -/
abbrev Byte := BitVec 8

/-- A 16-bit value: an opcode, `I`, `pc`, a stack entry (R12, R24, R27, R28, R70). -/
abbrev Word := BitVec 16

/-- The 12-bit immediate `nnn`, an absolute address (R71). -/
abbrev Addr12 := BitVec 12

end Sys2Proof
end

