-- ==== Sys2Proof/Syntax.lean ====
section
/-! DEFINITION. The instructions: one constructor per row of spec/opcode_table.json, in the table's order, each
carrying the operand fields of 30_encoding.md R72. The names follow the constructors of R73. -/

namespace Sys2Proof

/-- A register number x or y: every value of the 4-bit field names a register (30_encoding.md R71). -/
abbrev Reg := Fin 16

/-- The complete target set of 30_encoding.md R74. -/
inductive Instr where
  /-- 00E0 CLS (R150) -/
  | cls
  /-- 00EE RET (R100) -/
  | ret
  /-- 1nnn JP nnn (R101) -/
  | jp (nnn : Addr12)
  /-- 2nnn CALL nnn (R102) -/
  | call (nnn : Addr12)
  /-- 3xnn SE Vx, nn (R110) -/
  | seImm (x : Reg) (nn : Byte)
  /-- 4xnn SNE Vx, nn (R111) -/
  | sneImm (x : Reg) (nn : Byte)
  /-- 5xy0 SE Vx, Vy (R112) -/
  | seReg (x y : Reg)
  /-- 6xnn LD Vx, nn (R120) -/
  | ldImm (x : Reg) (nn : Byte)
  /-- 7xnn ADD Vx, nn (R121) -/
  | addImm (x : Reg) (nn : Byte)
  /-- 8xy0 LD Vx, Vy (R122) -/
  | ldReg (x y : Reg)
  /-- 8xy1 OR Vx, Vy (R123) -/
  | or (x y : Reg)
  /-- 8xy2 AND Vx, Vy (R124) -/
  | and (x y : Reg)
  /-- 8xy3 XOR Vx, Vy (R125) -/
  | xor (x y : Reg)
  /-- 8xy4 ADD Vx, Vy (R126) -/
  | addReg (x y : Reg)
  /-- 8xy5 SUB Vx, Vy (R127) -/
  | sub (x y : Reg)
  /-- 8xy6 SHR Vx (R128); y is decoded but not used -/
  | shr (x y : Reg)
  /-- 8xy7 SUBN Vx, Vy (R129) -/
  | subn (x y : Reg)
  /-- 8xyE SHL Vx (R130); y is decoded but not used -/
  | shl (x y : Reg)
  /-- 9xy0 SNE Vx, Vy (R113) -/
  | sneReg (x y : Reg)
  /-- Annn LD I, nnn (R140) -/
  | ldI (nnn : Addr12)
  /-- Bnnn JP V0, nnn (R103) -/
  | jpV0 (nnn : Addr12)
  /-- Cxnn RND Vx, nn (R151) -/
  | rnd (x : Reg) (nn : Byte)
  /-- Dxyn DRW Vx, Vy, n (R152); n is the row count -/
  | drw (x y : Reg) (n : Nat)
  /-- Ex9E SKP Vx (R160) -/
  | skp (x : Reg)
  /-- ExA1 SKNP Vx (R161) -/
  | sknp (x : Reg)
  /-- Fx07 LD Vx, DT (R162) -/
  | ldVxDt (x : Reg)
  /-- Fx0A LD Vx, K (R163) -/
  | ldVxK (x : Reg)
  /-- Fx15 LD DT, Vx (R164) -/
  | ldDtVx (x : Reg)
  /-- Fx18 LD ST, Vx (R165) -/
  | ldStVx (x : Reg)
  /-- Fx1E ADD I, Vx (R141) -/
  | addIVx (x : Reg)
  /-- Fx29 LD F, Vx (R142) -/
  | ldFVx (x : Reg)
  /-- Fx33 LD B, Vx (R143) -/
  | ldBVx (x : Reg)
  /-- Fx55 LD [I], Vx (R144) -/
  | ldMemVx (x : Reg)
  /-- Fx65 LD Vx, [I] (R145) -/
  | ldVxMem (x : Reg)
  deriving DecidableEq, Repr

end Sys2Proof
end

