-- ==== Sys2Proof/Decode.lean ====
section
/-! DEFINITION. The single instruction format, the two-level decode, the opcode table and the encoder
(30_encoding.md R70 to R78). Decode is total: an unmatched word is rejected by name as Unknown(w) and never falls
through to another group (R73, R76). Byte order of the fetch: the first byte is bits 15..8 (20_memory.md R55). -/

namespace Sys2Proof

/-! ## Byte order -/

/-- The big-endian 16-bit word of two bytes, the lower address first (20_memory.md R54, R55). -/
def wordOfBytes (hi lo : Byte) : Word := BitVec.ofNat 16 (hi.toNat * 256 + lo.toNat)

/-- Bits 15..8 of a word, the byte at the lower address. -/
def hiByte (w : Word) : Byte := BitVec.ofNat 8 (w.toNat / 256)

/-- Bits 7..0 of a word, the byte at the higher address. -/
def loByte (w : Word) : Byte := BitVec.ofNat 8 w.toNat

/-! ## Fields (R70, R71) -/

/-- op, bits 15..12. -/
def opField (w : Word) : Nat := w.toNat / 4096

/-- x, bits 11..8, a register number. -/
def xField (w : Word) : Reg := Fin.ofNat 16 (w.toNat / 256)

/-- y, bits 7..4, a register number. -/
def yField (w : Word) : Reg := Fin.ofNat 16 (w.toNat / 16)

/-- n, bits 3..0, an unsigned count or the selector of groups 0x5, 0x8 and 0x9. -/
def nField (w : Word) : Nat := w.toNat % 16

/-- nn, bits 7..0, as an immediate byte. -/
def nnField (w : Word) : Byte := BitVec.ofNat 8 w.toNat

/-- nn, bits 7..0, as the selector of groups 0xE and 0xF. -/
def selField (w : Word) : Nat := w.toNat % 256

/-- nnn, bits 11..0, an absolute address. -/
def nnnField (w : Word) : Addr12 := BitVec.ofNat 12 w.toNat

/-! ## Decode (R73) -/

/-- What a word decodes to: an instruction of the target set, or Unknown(w). -/
inductive Decoded where
  | instr (i : Instr)
  | unknown (w : Word)
  deriving DecidableEq, Repr

/-- Group 0x8: the register-register operations, selected by n. -/
def decodeAlu (w : Word) : Decoded :=
  let x := xField w
  let y := yField w
  match nField w with
  | 0x0 => .instr (.ldReg x y)
  | 0x1 => .instr (.or x y)
  | 0x2 => .instr (.and x y)
  | 0x3 => .instr (.xor x y)
  | 0x4 => .instr (.addReg x y)
  | 0x5 => .instr (.sub x y)
  | 0x6 => .instr (.shr x y)
  | 0x7 => .instr (.subn x y)
  | 0xE => .instr (.shl x y)
  | _ => .unknown w

/-- Group 0xE: the key skips, selected by nn. -/
def decodeKey (w : Word) : Decoded :=
  match selField w with
  | 0x9E => .instr (.skp (xField w))
  | 0xA1 => .instr (.sknp (xField w))
  | _ => .unknown w

/-- Group 0xF: timers, key wait, index and memory, selected by nn. -/
def decodeMisc (w : Word) : Decoded :=
  let x := xField w
  match selField w with
  | 0x07 => .instr (.ldVxDt x)
  | 0x0A => .instr (.ldVxK x)
  | 0x15 => .instr (.ldDtVx x)
  | 0x18 => .instr (.ldStVx x)
  | 0x1E => .instr (.addIVx x)
  | 0x29 => .instr (.ldFVx x)
  | 0x33 => .instr (.ldBVx x)
  | 0x55 => .instr (.ldMemVx x)
  | 0x65 => .instr (.ldVxMem x)
  | _ => .unknown w

/-- `Decode(w)` of R73, total on every word. The last arm stands for no word: op is at most 0xF. -/
def decode (w : Word) : Decoded :=
  match opField w with
  | 0x0 => if w = 0x00E0 then .instr .cls else if w = 0x00EE then .instr .ret else .unknown w
  | 0x1 => .instr (.jp (nnnField w))
  | 0x2 => .instr (.call (nnnField w))
  | 0x3 => .instr (.seImm (xField w) (nnField w))
  | 0x4 => .instr (.sneImm (xField w) (nnField w))
  | 0x5 => if nField w = 0 then .instr (.seReg (xField w) (yField w)) else .unknown w
  | 0x6 => .instr (.ldImm (xField w) (nnField w))
  | 0x7 => .instr (.addImm (xField w) (nnField w))
  | 0x8 => decodeAlu w
  | 0x9 => if nField w = 0 then .instr (.sneReg (xField w) (yField w)) else .unknown w
  | 0xA => .instr (.ldI (nnnField w))
  | 0xB => .instr (.jpV0 (nnnField w))
  | 0xC => .instr (.rnd (xField w) (nnField w))
  | 0xD => .instr (.drw (xField w) (yField w) (nField w))
  | 0xE => decodeKey w
  | 0xF => decodeMisc w
  | _ => .unknown w

/-- What a byte sequence starts with: an instruction, an Unknown word, or fewer than two bytes. -/
inductive DecodedBytes where
  | instr (i : Instr) (rest : List Byte)
  | unknown (w : Word) (rest : List Byte)
  | truncated
  deriving DecidableEq, Repr

/-- Decode the first two bytes of a sequence, big-endian; every instruction is 2 bytes long (R70, R78; log 29). -/
def decodeBytes : List Byte → DecodedBytes
  | hi :: lo :: rest =>
    match decode (wordOfBytes hi lo) with
    | .instr i => .instr i rest
    | .unknown w => .unknown w rest
  | _ => .truncated

/-- The instruction the decoder reads from the word w of an opcode-table row of nbits bits. -/
def decodeTableWord (nbits w : Nat) : Option Instr :=
  let op : Word := BitVec.ofNat 16 (w % 2 ^ nbits)
  match decodeBytes [hiByte op, loByte op] with
  | .instr i _ => some i
  | .unknown _ _ => none
  | .truncated => none

/-! ## The encoder -/

/-- Format nnn: op in bits 15..12, nnn in bits 11..0. -/
def nnnWord (op : Nat) (nnn : Addr12) : Word := BitVec.ofNat 16 (op * 4096 + nnn.toNat)

/-- Format xnn: op, x in bits 11..8, nn in bits 7..0. -/
def xnnWord (op : Nat) (x : Reg) (nn : Byte) : Word :=
  BitVec.ofNat 16 (op * 4096 + x.val * 256 + nn.toNat)

/-- Format xyn: op, x, y in bits 7..4, n in bits 3..0. -/
def xynWord (op : Nat) (x y : Reg) (n : Nat) : Word :=
  BitVec.ofNat 16 (op * 4096 + x.val * 256 + y.val * 16 + n)

/-- Format x: op, x, and the fixed selector in bits 7..0. -/
def xSelWord (op : Nat) (x : Reg) (sel : Nat) : Word :=
  BitVec.ofNat 16 (op * 4096 + x.val * 256 + sel)

/-- The word of a well-formed instruction, from the patterns of R74. -/
def encode : Instr → Word
  | .cls => BitVec.ofNat 16 0x00E0
  | .ret => BitVec.ofNat 16 0x00EE
  | .jp nnn => nnnWord 0x1 nnn
  | .call nnn => nnnWord 0x2 nnn
  | .seImm x nn => xnnWord 0x3 x nn
  | .sneImm x nn => xnnWord 0x4 x nn
  | .seReg x y => xynWord 0x5 x y 0x0
  | .ldImm x nn => xnnWord 0x6 x nn
  | .addImm x nn => xnnWord 0x7 x nn
  | .ldReg x y => xynWord 0x8 x y 0x0
  | .or x y => xynWord 0x8 x y 0x1
  | .and x y => xynWord 0x8 x y 0x2
  | .xor x y => xynWord 0x8 x y 0x3
  | .addReg x y => xynWord 0x8 x y 0x4
  | .sub x y => xynWord 0x8 x y 0x5
  | .shr x y => xynWord 0x8 x y 0x6
  | .subn x y => xynWord 0x8 x y 0x7
  | .shl x y => xynWord 0x8 x y 0xE
  | .sneReg x y => xynWord 0x9 x y 0x0
  | .ldI nnn => nnnWord 0xA nnn
  | .jpV0 nnn => nnnWord 0xB nnn
  | .rnd x nn => xnnWord 0xC x nn
  | .drw x y n => xynWord 0xD x y n
  | .skp x => xSelWord 0xE x 0x9E
  | .sknp x => xSelWord 0xE x 0xA1
  | .ldVxDt x => xSelWord 0xF x 0x07
  | .ldVxK x => xSelWord 0xF x 0x0A
  | .ldDtVx x => xSelWord 0xF x 0x15
  | .ldStVx x => xSelWord 0xF x 0x18
  | .addIVx x => xSelWord 0xF x 0x1E
  | .ldFVx x => xSelWord 0xF x 0x29
  | .ldBVx x => xSelWord 0xF x 0x33
  | .ldMemVx x => xSelWord 0xF x 0x55
  | .ldVxMem x => xSelWord 0xF x 0x65

/-- The two bytes of an instruction in fetch order (20_memory.md R55). -/
def encodeBytes (i : Instr) : List Byte := [hiByte (encode i), loByte (encode i)]

/-! ## The opcode table (R74) -/

/-- One row of R74: a word w selects it when w &&& mask = value. -/
structure Row where
  mnemonic : String
  value : Word
  mask : Word
  deriving DecidableEq, Repr

/-- The row selects the word. -/
def Row.selects (r : Row) (w : Word) : Bool := (w &&& r.mask) == r.value

/-- The 34 rows, with the mnemonics of spec/opcode_table.json. -/
def opcodeTable : List Row :=
  [⟨"CLS", 0x00E0, 0xFFFF⟩,
   ⟨"RET", 0x00EE, 0xFFFF⟩,
   ⟨"JP_nnn", 0x1000, 0xF000⟩,
   ⟨"CALL_nnn", 0x2000, 0xF000⟩,
   ⟨"SE_Vx__nn", 0x3000, 0xF000⟩,
   ⟨"SNE_Vx__nn", 0x4000, 0xF000⟩,
   ⟨"SE_Vx__Vy", 0x5000, 0xF00F⟩,
   ⟨"LD_Vx__nn", 0x6000, 0xF000⟩,
   ⟨"ADD_Vx__nn", 0x7000, 0xF000⟩,
   ⟨"LD_Vx__Vy", 0x8000, 0xF00F⟩,
   ⟨"OR_Vx__Vy", 0x8001, 0xF00F⟩,
   ⟨"AND_Vx__Vy", 0x8002, 0xF00F⟩] ++
  [⟨"XOR_Vx__Vy", 0x8003, 0xF00F⟩,
   ⟨"ADD_Vx__Vy", 0x8004, 0xF00F⟩,
   ⟨"SUB_Vx__Vy", 0x8005, 0xF00F⟩,
   ⟨"SHR_Vx____Vy", 0x8006, 0xF00F⟩,
   ⟨"SUBN_Vx__Vy", 0x8007, 0xF00F⟩,
   ⟨"SHL_Vx____Vy", 0x800E, 0xF00F⟩,
   ⟨"SNE_Vx__Vy", 0x9000, 0xF00F⟩,
   ⟨"LD_I__nnn", 0xA000, 0xF000⟩,
   ⟨"JP_V0__nnn", 0xB000, 0xF000⟩,
   ⟨"RND_Vx__nn", 0xC000, 0xF000⟩,
   ⟨"DRW_Vx__Vy__n", 0xD000, 0xF000⟩,
   ⟨"SKP_Vx", 0xE09E, 0xF0FF⟩] ++
  [⟨"SKNP_Vx", 0xE0A1, 0xF0FF⟩,
   ⟨"LD_Vx__DT", 0xF007, 0xF0FF⟩,
   ⟨"LD_Vx__K", 0xF00A, 0xF0FF⟩,
   ⟨"LD_DT__Vx", 0xF015, 0xF0FF⟩,
   ⟨"LD_ST__Vx", 0xF018, 0xF0FF⟩,
   ⟨"ADD_I__Vx", 0xF01E, 0xF0FF⟩,
   ⟨"LD_F__Vx", 0xF029, 0xF0FF⟩,
   ⟨"LD_B__Vx", 0xF033, 0xF0FF⟩,
   ⟨"LD__I___Vx", 0xF055, 0xF0FF⟩,
   ⟨"LD_Vx___I", 0xF065, 0xF0FF⟩]

/-- The row's mnemonic an instruction stands for. -/
def mnemonicOf : Instr → String
  | .cls => "CLS"
  | .ret => "RET"
  | .jp _ => "JP_nnn"
  | .call _ => "CALL_nnn"
  | .seImm _ _ => "SE_Vx__nn"
  | .sneImm _ _ => "SNE_Vx__nn"
  | .seReg _ _ => "SE_Vx__Vy"
  | .ldImm _ _ => "LD_Vx__nn"
  | .addImm _ _ => "ADD_Vx__nn"
  | .ldReg _ _ => "LD_Vx__Vy"
  | .or _ _ => "OR_Vx__Vy"
  | .and _ _ => "AND_Vx__Vy"
  | .xor _ _ => "XOR_Vx__Vy"
  | .addReg _ _ => "ADD_Vx__Vy"
  | .sub _ _ => "SUB_Vx__Vy"
  | .shr _ _ => "SHR_Vx____Vy"
  | .subn _ _ => "SUBN_Vx__Vy"
  | .shl _ _ => "SHL_Vx____Vy"
  | .sneReg _ _ => "SNE_Vx__Vy"
  | .ldI _ => "LD_I__nnn"
  | .jpV0 _ => "JP_V0__nnn"
  | .rnd _ _ => "RND_Vx__nn"
  | .drw _ _ _ => "DRW_Vx__Vy__n"
  | .skp _ => "SKP_Vx"
  | .sknp _ => "SKNP_Vx"
  | .ldVxDt _ => "LD_Vx__DT"
  | .ldVxK _ => "LD_Vx__K"
  | .ldDtVx _ => "LD_DT__Vx"
  | .ldStVx _ => "LD_ST__Vx"
  | .addIVx _ => "ADD_I__Vx"
  | .ldFVx _ => "LD_F__Vx"
  | .ldBVx _ => "LD_B__Vx"
  | .ldMemVx _ => "LD__I___Vx"
  | .ldVxMem _ => "LD_Vx___I"

end Sys2Proof
end

