-- ==== Sys2Proof/Config.lean ====
section
/-! DEFINITION. What the spec leaves to the implementation: the parameters of 00_scope.md R10 as one plain record,
and the free draw of Cxnn as an opaque constant (44_display_and_random.md R151). The defaults stand in
Sys2Proof/Machine/Defaults.lean. -/

namespace Sys2Proof

/-- DATA_OOB_POLICY: what a data access above 0xFFF does (20_memory.md R52, decision D2). -/
inductive DataOobPolicy where
  /-- The access raises AddressOutOfRange(data, a). -/
  | fault
  /-- The address is reduced modulo 4096. -/
  | wrap
  deriving DecidableEq, Repr

/-- KEY_OOB_POLICY: what Ex9E and ExA1 do when Vx > 0xF (45_timers_and_input.md R160, decision D4). -/
inductive KeyOobPolicy where
  /-- The instruction raises KeyIndexOutOfRange(Vx). -/
  | fault
  /-- The key index is the low nibble of Vx. -/
  | lowNibble
  deriving DecidableEq, Repr

/-- SPRITE_BIT_ORDER: which bit of a sprite byte is column 0 (44_display_and_random.md R152, decision D9). -/
inductive SpriteBitOrder where
  /-- Bit 7 is column 0. -/
  | msbFirst
  /-- Bit 0 is column 0. -/
  | lsbFirst
  deriving DecidableEq, Repr

/-- The parameters R10 leaves open, taken as an argument of the machine (log 2). -/
structure Config where
  /-- FONT_TABLE: the 80 bytes reset copies to 0x000..0x04F. -/
  font : Vector Byte 80
  /-- DATA_OOB_POLICY. -/
  dataOob : DataOobPolicy
  /-- KEY_OOB_POLICY. -/
  keyOob : KeyOobPolicy
  /-- SPRITE_BIT_ORDER. -/
  spriteOrder : SpriteBitOrder
  deriving DecidableEq, Repr

/-- FREE VALUE. `draw_byte()` of Cxnn: the byte of the n-th draw, any value 0..255 (R151, decision D21, log 7).
It has no body, so whatever is proved holds for every sequence of draws. -/
opaque Config.drawByte : Nat → Byte

end Sys2Proof
end

