-- ==== Sys2Proof/Machine/Defaults.lean ====
section
/-! DEFINITION. The defaults this spec decided for the open parameters (00_scope.md R10) and the reset contents of
memory (10_state.md R39, 20_memory.md R51). -/

namespace Sys2Proof.Machine

/-- The customary glyph table, five bytes a glyph, 0 to F (93_implementation_defined.md G1; log 6). It is the
default of FONT_TABLE and nothing more: claims are stated for every font. -/
def defaultFont : Vector Byte 80 :=
  #v[0xF0, 0x90, 0x90, 0x90, 0xF0,  0x20, 0x60, 0x20, 0x20, 0x70,
     0xF0, 0x10, 0xF0, 0x80, 0xF0,  0xF0, 0x10, 0xF0, 0x10, 0xF0,
     0x90, 0x90, 0xF0, 0x10, 0x10,  0xF0, 0x80, 0xF0, 0x10, 0xF0,
     0xF0, 0x80, 0xF0, 0x90, 0xF0,  0xF0, 0x10, 0x20, 0x40, 0x40,
     0xF0, 0x90, 0xF0, 0x90, 0xF0,  0xF0, 0x90, 0xF0, 0x10, 0xF0,
     0xF0, 0x90, 0xF0, 0x90, 0x90,  0xE0, 0x90, 0xE0, 0x90, 0xE0,
     0xF0, 0x80, 0x80, 0x80, 0xF0,  0xE0, 0x90, 0x90, 0x90, 0xE0,
     0xF0, 0x80, 0xF0, 0x80, 0xF0,  0xF0, 0x80, 0xF0, 0x80, 0x80]

/-- DATA_OOB_POLICY = Fault, KEY_OOB_POLICY = Fault, SPRITE_BIT_ORDER = MSB first, FONT_TABLE = G1
(R10, decisions D2, D4, D9, D10; log 3 to 6). -/
def defaultConfig : Config where
  font := defaultFont
  dataOob := .fault
  keyOob := .fault
  spriteOrder := .msbFirst

/-- What the byte at address a holds after reset: FONT_TABLE at 0x000..0x04F, 0x00 above (R39, R210). It is also
what an address that memory does not list reads as. -/
def resetByte (c : Config) (a : Nat) : Byte := if h : a < 80 then c.font[a] else 0x00

end Sys2Proof.Machine
end

