-- ==== Sys2Proof/Machine/State.lean ====
section
/-! DEFINITION. CORE's state as plain data: the record of 10_state.md R20, the machine's parameters (R10) and the
count of free draws; the conditions and outcomes of 60_exceptions.md R180 and R195; the state after reset (R39, R210).
-/

namespace Sys2Proof.Machine

/-- The two kinds of memory access a bound check can reject (60_exceptions.md R180). -/
inductive Access where
  | fetch
  | data
  deriving DecidableEq, Repr

/-- The fatal conditions of 60_exceptions.md R180, each with the value it records. -/
inductive FatalKind where
  /-- 2nnn with sp = 16. -/
  | stackOverflow
  /-- 00EE with sp = 0. -/
  | stackUnderflow
  /-- A fetch at pc ≥ 0xFFF (records pc), or a data range that passes 0xFFF (records its lowest bad address). -/
  | addressOutOfRange (access : Access) (addr : Nat)
  /-- Ex9E or ExA1 with Vx > 0xF under KEY_OOB_POLICY = Fault (records Vx). -/
  | keyIndexOutOfRange (k : Byte)
  deriving DecidableEq, Repr

/-- The wait state of a pending Fx0A (10_state.md R32). -/
inductive Wait where
  | idle
  | awaiting (x : Reg) (latched : Option (Fin 16))
  deriving DecidableEq, Repr

/-- What step_cycle returns to the host (60_exceptions.md R195). -/
inductive CycleOutcome where
  | advanced
  | blocked
  | unknownOpcode (w : Word)
  | fault (k : FatalKind)
  deriving DecidableEq, Repr

/-- Why an operation stops with a fault of Host.Outcome. No cycle does: a fatal condition of the spec is a next state
in which the fault record is written (60_exceptions.md R182; log 8). -/
inductive Fault where
  /-- Raised by `load` alone, for an image of more than 3584 bytes: the loader-level ProgramTooLarge, rejected before any
  memory changes (R180, R213; log 16). Safe: the host goes on with the state it had. -/
  | programTooLarge
  deriving DecidableEq, Repr

/-- Why the model gives an operation no meaning. No cycle is refused. -/
inductive Refusal where
  /-- An instruction without a meaning; no arm of exec answers it. Safe. -/
  | notModelled (mnemonic : String)
  /-- `set_key_state` with an index outside 0..15: not a legal call (R167, R197, decision D23; log 17). Safe. -/
  | keyIndexNotLegal (k : Nat)
  /-- A host operation other than reset before the first reset (R197, R214, 93 T7; log 17). Safe. -/
  | beforeFirstReset
  deriving DecidableEq, Repr

/-- Memory as the list of the bytes that differ from their reset contents, addresses strictly rising (log 14). -/
abbrev Memory := List Host.Cell

/-- The display buffer, rows y of 64 pixels each: `disp[y][x]` (10_state.md R30). -/
abbrev Display := Vector (Vector Bool 64) 32

/-- CORE's state record (10_state.md R20), and two fields of the model's own. -/
structure State where
  /-- The parameters of R10; nothing writes this field (log 2). -/
  cfg : Config
  /-- The 4096-byte store (20_memory.md R50), in canonical form. -/
  mem : Memory
  /-- V0..VF (10_state.md R21). -/
  v : Vector Byte 16
  /-- The index register I (R27). -/
  i : Word
  /-- The program counter (R24). -/
  pc : Word
  /-- The call stack's entries (R28). -/
  stack : Vector Word 16
  /-- The number of stack entries in use, 0..16 (R28). -/
  sp : Fin 17
  /-- The delay timer DT (R29). -/
  dt : Byte
  /-- The sound timer ST (R29). -/
  st : Byte
  /-- The display buffer (R30). -/
  disp : Display
  /-- The input latch, true meaning pressed (R31). -/
  key : Vector Bool 16
  /-- The wait state (R32). -/
  wait : Wait
  /-- The fault record (R33). -/
  fault : Option FatalKind
  /-- How many free bytes Cxnn has drawn; the model's own (R35, R151; log 7). -/
  draws : Nat
  deriving DecidableEq, Repr

/-- The state reset leaves, for the parameters, key latch and draw count it does not touch (R39, R210; log 7, 13). -/
def State.atReset (cfg : Config) (key : Vector Bool 16) (draws : Nat) : State where
  cfg := cfg
  mem := []
  v := Vector.replicate 16 0x00
  i := 0x0000
  pc := 0x200
  stack := Vector.replicate 16 0x0000
  sp := 0
  dt := 0
  st := 0
  disp := Vector.replicate 32 (Vector.replicate 64 false)
  key := key
  wait := .idle
  fault := none
  draws := draws

/-- The machine right after its first reset: no key pressed since the machine was created (R31, R39). -/
def State.reset : State := State.atReset defaultConfig (Vector.replicate 16 false) 0

end Sys2Proof.Machine
end

