-- ==== Sys2Proof/Machine/Ops.lean ====
section
/-! DEFINITION. The named operations over registers, stack and memory (10_state.md, 20_memory.md), the successors of
pc (30_encoding.md R83), and raising a fatal condition, once (60_exceptions.md R182). -/

namespace Sys2Proof.Machine

/-! ## One field at a time -/

/-- `V[x]` (10_state.md R21). -/
def State.readV (s : State) (x : Reg) : Byte := s.v[x.val]

/-- `V[x] <- b` (R21). -/
def State.setV (s : State) (x : Reg) (b : Byte) : State := { s with v := s.v.set x.val b }

/-- All general registers at once (Fx65). -/
def State.setRegs (s : State) (v : Vector Byte 16) : State := { s with v := v }

/-- `I <- w` (R27). -/
def State.setI (s : State) (w : Word) : State := { s with i := w }

/-- `pc <- w` (R24). -/
def State.setPc (s : State) (w : Word) : State := { s with pc := w }

/-- Memory as a whole. -/
def State.setMem (s : State) (m : Memory) : State := { s with mem := m }

/-- The call stack's entries and pointer (R28). -/
def State.setStack (s : State) (stack : Vector Word 16) (sp : Fin 17) : State := { s with stack := stack, sp := sp }

/-- `DT <- b` (R29). -/
def State.setDt (s : State) (b : Byte) : State := { s with dt := b }

/-- `ST <- b` (R29). -/
def State.setSt (s : State) (b : Byte) : State := { s with st := b }

/-- The display buffer (R30). -/
def State.setDisp (s : State) (d : Display) : State := { s with disp := d }

/-- The input latch (R31). -/
def State.setKey (s : State) (key : Vector Bool 16) : State := { s with key := key }

/-- `wait <- w` (R32). -/
def State.setWait (s : State) (w : Wait) : State := { s with wait := w }

/-- `fault <- f` (R33). -/
def State.setFault (s : State) (f : Option FatalKind) : State := { s with fault := f }

/-- One free byte has been drawn (R151; log 7). -/
def State.countDraw (s : State) : State := { s with draws := s.draws + 1 }

/-! ## Successors of pc (30_encoding.md R83) -/

/-- `pc <- NEXT`, NEXT = pc0 + 2 modulo 65536. -/
def State.toNext (s : State) : State := s.setPc (s.pc + 2)

/-- `pc <- SKIP`, SKIP = pc0 + 4 modulo 65536. -/
def State.toSkip (s : State) : State := s.setPc (s.pc + 4)

/-- The skip rule of 41_conditional_skip.md R114. -/
def State.skipIf (s : State) (c : Bool) : State := if c then s.toSkip else s.toNext

/-! ## Fatal conditions (60_exceptions.md R182) -/

/-- A fatal condition: nothing is written but the fault record, so pc keeps pc0. -/
def raise (k : FatalKind) (s : State) : State := s.setFault (some k)

/-- The end of an instruction that can raise: its writes as a whole, or none of them and the record
(R182, decision D6; log 10). -/
def settle (s : State) (r : Except FatalKind State) : Host.Outcome State Fault Refusal :=
  match r with
  | .ok t => .next t
  | .error k => .next (raise k s)

/-! ## The call stack (10_state.md R28) -/

/-- `Push(w)`. -/
def push (w : Word) (s : State) : Except FatalKind State :=
  if h : s.sp.val < 16 then .ok (s.setStack (s.stack.set s.sp.val w) ⟨s.sp.val + 1, by omega⟩)
  else .error .stackOverflow

/-- `Pop()`: the popped value, and the state with the entry left in place (R28). -/
def pop (s : State) : Except FatalKind (Word × State) :=
  if h : s.sp.val = 0 then .error .stackUnderflow
  else .ok (s.stack[s.sp.val - 1]'(by omega), s.setStack s.stack ⟨s.sp.val - 1, by omega⟩)

/-! ## Memory as data (20_memory.md R50; log 14) -/

/-- The byte listed at a, or bg where none is listed. -/
def lookupCell (bg : Byte) (a : Nat) : Memory → Byte
  | [] => bg
  | (b, u) :: rest => if b = a then u else lookupCell bg a rest

/-- The list without any entry at a. -/
def eraseCell (a : Nat) : Memory → Memory
  | [] => []
  | (b, u) :: rest => if b = a then eraseCell a rest else (b, u) :: eraseCell a rest

/-- The list with v at a, in address order. -/
def putCell (a : Nat) (v : Byte) : Memory → Memory
  | [] => [(a, v)]
  | (b, u) :: rest =>
    if a < b then (a, v) :: (b, u) :: rest
    else if a = b then (a, v) :: rest
    else (b, u) :: putCell a v rest

/-- `mem[a]`. -/
def readMem (c : Config) (m : Memory) (a : Nat) : Byte := lookupCell (resetByte c a) a m

/-- `mem[a] <- v`, keeping the canonical form: a byte at its reset contents is not listed. -/
def writeMem (c : Config) (m : Memory) (a : Nat) (v : Byte) : Memory :=
  if v = resetByte c a then eraseCell a m else putCell a v m

/-- The canonical form: addresses strictly rising and inside the store, no byte at its reset contents. -/
abbrev Memory.wf (c : Config) (m : Memory) : Prop :=
  m.Pairwise (fun p q => p.1 < q.1) ∧ ∀ p ∈ m, p.1 ≤ 0xFFF ∧ p.2 ≠ resetByte c p.1

/-- The byte the machine holds at address a. -/
def State.byteAt (s : State) (a : Nat) : Byte := readMem s.cfg s.mem a

/-- The machine with the byte v at address a. -/
def State.withByte (s : State) (a : Nat) (v : Byte) : State := s.setMem (writeMem s.cfg s.mem a v)

/-! ## Data accesses (20_memory.md R52, R53, R67) -/

/-- The lowest address of a .. a+count-1 above 0xFFF, if any. -/
def firstBad (a : Nat) : Nat → Option Nat
  | 0 => none
  | count + 1 => if a > 0xFFF then some a else firstBad (a + 1) count

/-- `CheckData(a, count)`: under Fault it raises at the lowest bad address; under Wrap it checks nothing (R67). -/
def checkData (c : Config) (a count : Nat) : Except FatalKind Unit :=
  match c.dataOob with
  | .wrap => .ok ()
  | .fault =>
    match firstBad a count with
    | none => .ok ()
    | some b => .error (.addressOutOfRange .data b)

/-- The location a data address names: itself up to 0xFFF, else as DATA_OOB_POLICY says (R52, R53). -/
def dataLocation (c : Config) (a : Nat) : Except FatalKind Nat :=
  if a ≤ 0xFFF then .ok a
  else
    match c.dataOob with
    | .fault => .error (.addressOutOfRange .data a)
    | .wrap => .ok (a % 4096)

/-- `MemRead(a, 1)` (R52). -/
def memRead (s : State) (a : Nat) : Except FatalKind Byte :=
  (dataLocation s.cfg a).map s.byteAt

/-- `MemWrite(a, 1, v)` (R53). -/
def memWrite (s : State) (a : Nat) (v : Byte) : Except FatalKind State :=
  (dataLocation s.cfg a).map fun l => s.withByte l v

/-- `MemRead` at a, a+1, … for count bytes, in ascending order (R57). -/
def memReadSeq (s : State) (a : Nat) : Nat → Except FatalKind (List Byte)
  | 0 => .ok []
  | count + 1 => do
    let b ← memRead s a
    let bs ← memReadSeq s (a + 1) count
    return b :: bs

/-- `MemWrite` of the bytes at a, a+1, … in ascending order (R57). -/
def memWriteSeq (s : State) (a : Nat) : List Byte → Except FatalKind State
  | [] => .ok s
  | v :: vs => do
    let t ← memWrite s a v
    memWriteSeq t (a + 1) vs

/-- A block read: the whole range is checked before the first byte is read (R53, R67). -/
def readBlock (s : State) (a count : Nat) : Except FatalKind (List Byte) := do
  checkData s.cfg a count
  memReadSeq s a count

/-- A block write: the whole range is checked before the first byte is written (R53, R67). -/
def writeBlock (s : State) (a : Nat) (bytes : List Byte) : Except FatalKind State := do
  checkData s.cfg a bytes.length
  memWriteSeq s a bytes

/-! ## The instruction fetch (20_memory.md R54) -/

/-- `FetchWord(p)`: always checked, never wraps, big-endian. -/
def fetchWord (s : State) (p : Word) : Except FatalKind Word :=
  if p.toNat + 1 > 0xFFF then .error (.addressOutOfRange .fetch p.toNat)
  else .ok (wordOfBytes (s.byteAt p.toNat) (s.byteAt (p.toNat + 1)))

end Sys2Proof.Machine
end

