-- ==== Sys2Proof/Machine/Operands.lean ====
section
/-! DEFINITION. Every operand form of 30_encoding.md R71 and 43_index_and_memory.md R146: widened immediates, the
register-indirect base, decimal digits, register blocks, key indices, sprite bits. -/

namespace Sys2Proof.Machine

/-- `zext_16` of a register's byte (00_scope.md R12). -/
def zextByte (b : Byte) : Word := b.setWidth 16

/-- `zext_16(nnn)` (R71). -/
def zextAddr (nnn : Addr12) : Word := nnn.setWidth 16

/-- The base address I as an exact natural number (20_memory.md R52). -/
abbrev State.base (s : State) : Nat := s.i.toNat

/-- The address of font glyph b, the whole byte times 5 (43_index_and_memory.md R142, decision D18; log 25). -/
def glyphAddr (b : Byte) : Word := BitVec.ofNat 16 (b.toNat * 5)

/-- The hundreds, tens and ones of a byte, one byte each (R143). -/
def decimalDigits (b : Byte) : List Byte :=
  [BitVec.ofNat 8 (b.toNat / 100), BitVec.ofNat 8 (b.toNat / 10 % 10), BitVec.ofNat 8 (b.toNat % 10)]

/-- V0..Vx in order (R144). -/
def regBlock (s : State) (x : Reg) : List Byte := s.v.toList.take (x.val + 1)

/-- Write a list of bytes to Vk, Vk+1, … (R145). -/
def loadRegs (v : Vector Byte 16) (k : Nat) : List Byte → Vector Byte 16
  | [] => v
  | b :: bs => loadRegs (v.setIfInBounds k b) (k + 1) bs

/-- The key a register names: its value up to 0xF, else as KEY_OOB_POLICY says (45_timers_and_input.md R160). -/
def keyIndex (c : Config) (b : Byte) : Except FatalKind (Fin 16) :=
  if h : b.toNat < 16 then .ok ⟨b.toNat, h⟩
  else
    match c.keyOob with
    | .fault => .error (.keyIndexOutOfRange b)
    | .lowNibble => .ok (Fin.ofNat 16 b.toNat)

/-- `key[k]` (10_state.md R31). -/
def State.keyAt (s : State) (k : Fin 16) : Bool := s.key[k.val]

/-- The bit of a sprite byte that is column c, 0..7 (44_display_and_random.md R152; log 5). -/
def spriteBit (order : SpriteBitOrder) (b : Byte) (c : Nat) : Bool :=
  match order with
  | .msbFirst => b.getLsbD (7 - c)
  | .lsbFirst => b.getLsbD c

end Sys2Proof.Machine
end

