-- ==== Sys2Proof/Machine/Flags.lean ====
section
/-! DEFINITION. Every flag computation of 10_state.md R26, and the one order in which a result and its flag are
written: Vx, then VF (R22, 00_scope.md R14). -/

namespace Sys2Proof.Machine

/-- VF (R22). -/
abbrev regVF : Reg := 0xF

/-- A flag as the byte VF receives, 1 or 0 (R26). -/
def flagByte (c : Bool) : Byte := if c then 1 else 0

/-- 8xy4: the exact sum passes 255. -/
def carryOut (a b : Byte) : Bool := decide (a.toNat + b.toNat > 255)

/-- 8xy5 and 8xy7: a - b needs no borrow, that is, b is not above a. -/
def noBorrow (a b : Byte) : Bool := !decide (b.toNat > a.toNat)

/-- 8xy6: bit 0 before the shift. -/
def outRight (a : Byte) : Bool := a.getLsbD 0

/-- 8xyE: bit 7 before the shift. -/
def outLeft (a : Byte) : Bool := a.getLsbD 7

/-- The result to Vx, then the flag to VF: with x = 0xF VF ends holding the flag (R22). -/
def State.writeFlagged (s : State) (x : Reg) (result : Byte) (flag : Bool) : State :=
  (s.setV x result).setV regVF (flagByte flag)

end Sys2Proof.Machine
end

