-- ==== Sys2Proof/Machine/Alu.lean ====
section
/-! DEFINITION. Register loads and the ALU (42_register_alu.md R120 to R131): 6xnn, 7xnn, 8xy0 to 8xy7, 8xyE. Every
one reads its operands first, ends at NEXT and raises nothing. -/

namespace Sys2Proof.Machine

/-- 6xnn LD Vx, nn (R120). -/
def execLdImm (x : Reg) (nn : Byte) (s : State) : Host.Outcome State Fault Refusal :=
  .next (s.setV x nn).toNext

/-- 7xnn ADD Vx, nn: modulo 256, no carry flag (R121). -/
def execAddImm (x : Reg) (nn : Byte) (s : State) : Host.Outcome State Fault Refusal :=
  .next (s.setV x (s.readV x + nn)).toNext

/-- 8xy0 LD Vx, Vy (R122). -/
def execLdReg (x y : Reg) (s : State) : Host.Outcome State Fault Refusal :=
  .next (s.setV x (s.readV y)).toNext

/-- 8xy1 OR Vx, Vy; VF is written only as Vx (R123, decision D16; log 23). -/
def execOr (x y : Reg) (s : State) : Host.Outcome State Fault Refusal :=
  .next (s.setV x (s.readV x ||| s.readV y)).toNext

/-- 8xy2 AND Vx, Vy; VF is written only as Vx (R124, decision D16; log 23). -/
def execAnd (x y : Reg) (s : State) : Host.Outcome State Fault Refusal :=
  .next (s.setV x (s.readV x &&& s.readV y)).toNext

/-- 8xy3 XOR Vx, Vy; VF is written only as Vx (R125, decision D16; log 23). -/
def execXor (x y : Reg) (s : State) : Host.Outcome State Fault Refusal :=
  .next (s.setV x (s.readV x ^^^ s.readV y)).toNext

/-- 8xy4 ADD Vx, Vy with carry out (R126). -/
def execAddReg (x y : Reg) (s : State) : Host.Outcome State Fault Refusal :=
  .next (s.writeFlagged x (s.readV x + s.readV y) (carryOut (s.readV x) (s.readV y))).toNext

/-- 8xy5 SUB Vx, Vy: Vx - Vy, VF the not-borrow (R127). -/
def execSub (x y : Reg) (s : State) : Host.Outcome State Fault Refusal :=
  .next (s.writeFlagged x (s.readV x - s.readV y) (noBorrow (s.readV x) (s.readV y))).toNext

/-- 8xy6 SHR Vx: by one, VF the bit shifted out; y is not used (R128, decision D17; log 24). -/
def execShr (x _y : Reg) (s : State) : Host.Outcome State Fault Refusal :=
  .next (s.writeFlagged x (s.readV x >>> 1) (outRight (s.readV x))).toNext

/-- 8xy7 SUBN Vx, Vy: Vy - Vx, VF the not-borrow (R129). -/
def execSubn (x y : Reg) (s : State) : Host.Outcome State Fault Refusal :=
  .next (s.writeFlagged x (s.readV y - s.readV x) (noBorrow (s.readV y) (s.readV x))).toNext

/-- 8xyE SHL Vx: by one modulo 256, VF the bit shifted out; y is not used (R130, decision D17; log 24). -/
def execShl (x _y : Reg) (s : State) : Host.Outcome State Fault Refusal :=
  .next (s.writeFlagged x (s.readV x <<< 1) (outLeft (s.readV x))).toNext

end Sys2Proof.Machine
end

