-- ==== Sys2Proof/Machine/ControlFlow.lean ====
section
/-! DEFINITION. The unconditional control transfers (40_control_flow.md R100 to R104): 00EE, 1nnn, 2nnn, Bnnn. A
target that cannot be fetched faults at the next cycle's fetch, not here (R104). -/

namespace Sys2Proof.Machine

/-- 00EE RET: pc takes the popped value as it is; StackUnderflow with sp = 0 (R100). -/
def execRet (s : State) : Host.Outcome State Fault Refusal :=
  settle s do
    let (target, t) ← pop s
    return t.setPc target

/-- 1nnn JP nnn (R101). -/
def execJp (nnn : Addr12) (s : State) : Host.Outcome State Fault Refusal :=
  .next (s.setPc (zextAddr nnn))

/-- 2nnn CALL nnn: pushes NEXT; StackOverflow with sp = 16 (R102, decision D27; log 21). -/
def execCall (nnn : Addr12) (s : State) : Host.Outcome State Fault Refusal :=
  settle s do
    let t ← push (s.pc + 2) s
    return t.setPc (zextAddr nnn)

/-- Bnnn JP V0, nnn: not reduced modulo 4096 (R103). -/
def execJpV0 (nnn : Addr12) (s : State) : Host.Outcome State Fault Refusal :=
  .next (s.setPc (zextAddr nnn + zextByte (s.readV 0)))

end Sys2Proof.Machine
end

