-- ==== Sys2Proof/Machine/IndexMemory.lean ====
section
/-! DEFINITION. The index register and the block transfers through it (43_index_and_memory.md R140 to R146): Annn,
Fx1E, Fx29, Fx33, Fx55, Fx65. None of the last three changes I (decision D15; log 22). -/

namespace Sys2Proof.Machine

/-- Annn LD I, nnn (R140). -/
def execLdI (nnn : Addr12) (s : State) : Host.Outcome State Fault Refusal :=
  .next (s.setI (zextAddr nnn)).toNext

/-- Fx1E ADD I, Vx: modulo 65536, no flag (R141). -/
def execAddIVx (x : Reg) (s : State) : Host.Outcome State Fault Refusal :=
  .next (s.setI (s.i + zextByte (s.readV x))).toNext

/-- Fx29 LD F, Vx (R142). -/
def execLdFVx (x : Reg) (s : State) : Host.Outcome State Fault Refusal :=
  .next (s.setI (glyphAddr (s.readV x))).toNext

/-- Fx33 LD B, Vx: the three decimal digits at I, I+1, I+2 (R143). -/
def execLdBVx (x : Reg) (s : State) : Host.Outcome State Fault Refusal :=
  settle s do
    let t ← writeBlock s s.base (decimalDigits (s.readV x))
    return t.toNext

/-- Fx55 LD [I], Vx: V0..Vx at I.. (R144). -/
def execLdMemVx (x : Reg) (s : State) : Host.Outcome State Fault Refusal :=
  settle s do
    let t ← writeBlock s s.base (regBlock s x)
    return t.toNext

/-- Fx65 LD Vx, [I]: V0..Vx from I.. (R145). -/
def execLdVxMem (x : Reg) (s : State) : Host.Outcome State Fault Refusal :=
  settle s do
    let bytes ← readBlock s s.base (x.val + 1)
    return (s.setRegs (loadRegs s.v 0 bytes)).toNext

end Sys2Proof.Machine
end

