-- ==== Sys2Proof/Machine/Screen.lean ====
section
/-! DEFINITION. Display and random (44_display_and_random.md R150 to R152): 00E0, Cxnn, Dxyn. -/

namespace Sys2Proof.Machine

/-- `disp[y][x]` (10_state.md R30). -/
def pixelAt (d : Display) (x : Fin 64) (y : Fin 32) : Bool := d[y.val][x.val]

/-- `disp[y][x] <- disp[y][x] ^ 1`. -/
def flipPixel (d : Display) (x : Fin 64) (y : Fin 32) : Display :=
  d.set y.val (d[y.val].set x.val (!pixelAt d x y))

/-- The display clear (R150). -/
def blankDisplay : Display := Vector.replicate 32 (Vector.replicate 64 false)

/-- The display during a draw, and whether a pixel has gone from 1 to 0. -/
structure Canvas where
  disp : Display
  collision : Bool
  deriving DecidableEq, Repr

/-- One 1 bit of a sprite at column x and row y, both wrapped (R152). -/
def plotBit (x y : Nat) (cv : Canvas) : Canvas :=
  let px := Fin.ofNat 64 x
  let py := Fin.ofNat 32 y
  { disp := flipPixel cv.disp px py, collision := cv.collision || pixelAt cv.disp px py }

/-- One sprite row b with its column 0 at (x, y): only its 1 bits flip pixels. -/
def plotRow (order : SpriteBitOrder) (b : Byte) (x y : Nat) (cv : Canvas) : Canvas :=
  (List.range 8).foldl (fun cv c => if spriteBit order b c then plotBit (x + c) y cv else cv) cv

/-- The sprite rows from row y down. -/
def plotRows (order : SpriteBitOrder) (x y : Nat) : List Byte → Canvas → Canvas
  | [], cv => cv
  | b :: bs, cv => plotRows order x (y + 1) bs (plotRow order b x y cv)

/-- 00E0 CLS (R150). -/
def execCls (s : State) : Host.Outcome State Fault Refusal :=
  .next (s.setDisp blankDisplay).toNext

/-- Cxnn RND Vx, nn: a free byte under the mask nn (R151, decision D21; log 7). -/
def execRnd (x : Reg) (nn : Byte) (s : State) : Host.Outcome State Fault Refusal :=
  .next (s.setV x (Config.drawByte s.draws &&& nn)).countDraw.toNext

/-- Dxyn DRW Vx, Vy, n: XOR of an 8-by-n sprite at (Vx, Vy), VF the collision, written last (R152). -/
def execDrw (x y : Reg) (n : Nat) (s : State) : Host.Outcome State Fault Refusal :=
  settle s do
    let rows ← readBlock s s.base n
    let cv := plotRows s.cfg.spriteOrder (s.readV x).toNat (s.readV y).toNat rows ⟨s.disp, false⟩
    return ((s.setDisp cv.disp).setV regVF (flagByte cv.collision)).toNext

end Sys2Proof.Machine
end

