-- ==== Sys2Proof/Machine/Skips.lean ====
section
/-! DEFINITION. The six conditional skips: 3xnn, 4xnn, 5xy0, 9xy0 (41_conditional_skip.md R110 to R114) and the key
skips Ex9E, ExA1 (45_timers_and_input.md R160, R161). -/

namespace Sys2Proof.Machine

/-- 3xnn SE Vx, nn (R110). -/
def execSeImm (x : Reg) (nn : Byte) (s : State) : Host.Outcome State Fault Refusal :=
  .next (s.skipIf (s.readV x == nn))

/-- 4xnn SNE Vx, nn (R111). -/
def execSneImm (x : Reg) (nn : Byte) (s : State) : Host.Outcome State Fault Refusal :=
  .next (s.skipIf (s.readV x != nn))

/-- 5xy0 SE Vx, Vy (R112). -/
def execSeReg (x y : Reg) (s : State) : Host.Outcome State Fault Refusal :=
  .next (s.skipIf (s.readV x == s.readV y))

/-- 9xy0 SNE Vx, Vy (R113). -/
def execSneReg (x y : Reg) (s : State) : Host.Outcome State Fault Refusal :=
  .next (s.skipIf (s.readV x != s.readV y))

/-- Ex9E SKP Vx: skips if the key is pressed; KeyIndexOutOfRange as KEY_OOB_POLICY says (R160). -/
def execSkp (x : Reg) (s : State) : Host.Outcome State Fault Refusal :=
  settle s do
    let k ← keyIndex s.cfg (s.readV x)
    return s.skipIf (s.keyAt k)

/-- ExA1 SKNP Vx: skips if the key is not pressed; KeyIndexOutOfRange as KEY_OOB_POLICY says (R161). -/
def execSknp (x : Reg) (s : State) : Host.Outcome State Fault Refusal :=
  settle s do
    let k ← keyIndex s.cfg (s.readV x)
    return s.skipIf (!s.keyAt k)

end Sys2Proof.Machine
end

