-- ==== Sys2Proof/Machine/TimersInput.lean ====
section
/-! DEFINITION. The timer instructions Fx07, Fx15, Fx18 and the key wait Fx0A (45_timers_and_input.md R162 to R165). -/

namespace Sys2Proof.Machine

/-- Fx07 LD Vx, DT (R162). -/
def execLdVxDt (x : Reg) (s : State) : Host.Outcome State Fault Refusal :=
  .next (s.setV x s.dt).toNext

/-- A key index as the byte Fx0A stores (R163). -/
def keyByte (k : Fin 16) : Byte := BitVec.ofNat 8 k.val

/-- The latch of a wait for register x; a wait for another register counts as none (R81, decision D8; log 11). -/
def waitFor (x : Reg) : Wait → Option (Option (Fin 16))
  | .idle => none
  | .awaiting y latched => if y = x then some latched else none

/-- Fx0A LD Vx, K: start waiting; stay blocked until an edge is latched; then deliver it (R163, decision D7; log 12). -/
def execLdVxK (x : Reg) (s : State) : Host.Outcome State Fault Refusal :=
  match waitFor x s.wait with
  | none => .next (s.setWait (.awaiting x none))
  | some none => .next s
  | some (some k) => .next ((s.setV x (keyByte k)).setWait .idle).toNext

/-- Fx15 LD DT, Vx (R164). -/
def execLdDtVx (x : Reg) (s : State) : Host.Outcome State Fault Refusal :=
  .next (s.setDt (s.readV x)).toNext

/-- Fx18 LD ST, Vx (R165). -/
def execLdStVx (x : Reg) (s : State) : Host.Outcome State Fault Refusal :=
  .next (s.setSt (s.readV x)).toNext

end Sys2Proof.Machine
end

