-- ==== Sys2Proof/Machine/Cycle.lean ====
section
/-! DEFINITION. The instruction cycle `step_cycle()` of 30_encoding.md R81: the next state and the outcome it returns
to the host (R82, 60_exceptions.md R181 to R184, R195). -/

namespace Sys2Proof.Machine

/-- A wait is discarded when the fetched word is not the Fx0A it belongs to (R81, decision D8; log 11). -/
def discardStaleWait (d : Decoded) (s : State) : State :=
  match s.wait with
  | .idle => s
  | .awaiting x _ => if d = .instr (.ldVxK x) then s else s.setWait .idle

/-- An Unknown word: pc <- NEXT and nothing else (R181). -/
def execUnknown (s : State) : State := s.toNext

/-- The outcome of an instruction that raised nothing: only Fx0A can be Blocked (R82, R163). -/
def completion (i : Instr) (t : State) : CycleOutcome :=
  match i, t.wait with
  | .ldVxK _, .awaiting _ _ => .blocked
  | _, _ => .advanced

/-- The end of a cycle that ran instruction i from s0. If it raised F, every write of the cycle is undone, the wait
discard among them, and F is recorded (R81, R182; log 10). -/
def finish (s0 : State) (i : Instr) : Host.Outcome State Fault Refusal →
    Host.Outcome (State × CycleOutcome) Fault Refusal
  | .next t =>
    match t.fault with
    | some k => .next (raise k s0, .fault k)
    | none => .next (t, completion i t)
  | .fault r => .fault r
  | .refused r => .refused r

/-- `step_cycle()` (R81), in the order of R184: halted, fetch bound, decode, the instruction. -/
def stepCycle (s : State) : Host.Outcome (State × CycleOutcome) Fault Refusal :=
  match s.fault with
  | some k => .next (s, .fault k)
  | none =>
    match fetchWord s s.pc with
    | .error k => .next (raise k s, .fault k)
    | .ok w =>
      match decode w with
      | .unknown u => .next (execUnknown (discardStaleWait (.unknown u) s), .unknownOpcode u)
      | .instr i => finish s i (exec i (discardStaleWait (.instr i) s))

end Sys2Proof.Machine
end

