-- ==== Sys2Proof/Machine/Step.lean ====
section
/-! DEFINITION. The step of the machine: the state step_cycle leaves (30_encoding.md R81). Placing an instruction
word where the next step fetches it (log 15). -/

namespace Sys2Proof.Machine

/-- One `step_cycle()`, without the outcome it returns to the host (stepCycle has both; log 9). -/
def step (s : State) : Host.Outcome State Fault Refusal :=
  match stepCycle s with
  | .next r => .next r.1
  | .fault r => .fault r
  | .refused r => .refused r

/-- s with the opcode whose bits are w stored where step fetches next, big-endian; the fetch also needs an unhalted
machine and a pc it accepts (log 15). -/
def State.withFetchWord (s : State) (nbits w : Nat) : State :=
  let op : Word := BitVec.ofNat 16 (w % 2 ^ nbits)
  let pc : Word := if s.pc.toNat < 0xFFF then s.pc else 0x200
  (((s.setFault none).setPc pc).withByte pc.toNat (hiByte op)).withByte (pc.toNat + 1) (loByte op)

end Sys2Proof.Machine
end

