-- ==== Sys2Proof/Machine/HostOps.lean ====
section
/-! DEFINITION. The operations CORE offers its collaborators besides the cycle (60_exceptions.md R196): reset, load, the
timer tick, the key input, the display snapshot and the sound observation; and one transaction of the host, with its
duties (R197). Each is one atomic step on the state (20_memory.md R61). -/

namespace Sys2Proof.Machine

/-- `reset()` (70_reset_and_hazards.md R210): everything but the key latch (decision D13; log 13). The parameters are
no state, and the draw count goes on (log 2, 7). -/
def resetCore (s : State) : State := State.atReset s.cfg s.key s.draws

/-- The largest program image, 4096 - 0x200 (R213). -/
abbrev maxProgram : Nat := 3584

/-- The image's bytes at a, a+1, …; a program image lies inside the store. -/
def placeBytes (s : State) (a : Nat) : List Byte → State
  | [] => s
  | b :: bs => placeBytes (s.withByte a b) (a + 1) bs

/-- `load(bytes)` (R213): the image at 0x200, or ProgramTooLarge before any byte is written (log 16). -/
def load (bytes : List Byte) (s : State) : Host.Outcome State Fault Refusal :=
  if bytes.length > maxProgram then .fault .programTooLarge else .next (placeBytes s 0x200 bytes)

/-- A timer after one tick: one lower, never below zero (R166). -/
def tickDown (t : Byte) : Byte := if t.toNat > 0 then t - 1 else t

/-- `tick_timers()` (R166). -/
def tickTimers (s : State) : State := (s.setDt (tickDown s.dt)).setSt (tickDown s.st)

/-- The wait after key k goes from not pressed to pressed: the first edge since it began is latched (R167). -/
def latchEdge (k : Fin 16) : Wait → Wait
  | .awaiting x none => .awaiting x (some k)
  | w => w

/-- `set_key_state(k, pressed)` for a legal k (R167). -/
def setKeyState (k : Fin 16) (pressed : Bool) (s : State) : State :=
  let t := if pressed && !s.keyAt k then s.setWait (latchEdge k s.wait) else s
  t.setKey (s.key.set k.val pressed)

/-- `sound_active()` (R168). -/
def soundActive (s : State) : Bool := s.st != 0

/-- The host's operations (R196). -/
inductive HostOp where
  | reset
  | load (bytes : List Byte)
  | stepCycle
  | tickTimers
  | setKeyState (k : Nat) (pressed : Bool)
  | snapshotDisplay
  | observeSound
  deriving DecidableEq, Repr

/-- What an operation returns to the host (R196). -/
inductive Reply where
  | done
  | loaded
  | programTooLarge
  | cycle (o : CycleOutcome)
  | display (d : Display)
  | sound (active : Bool) (st : Byte)
  deriving DecidableEq, Repr

/-- A machine the host holds: created but never reset, with its parameters, or running (R39, R214; log 17). -/
inductive Device where
  | created (cfg : Config)
  | running (s : State)
  deriving DecidableEq, Repr

/-- An operation on a running machine: the state it leaves and its reply. Every interleaving is admitted (R197). -/
def hostRun (op : HostOp) (s : State) : Host.Outcome (State × Reply) Fault Refusal :=
  match op with
  | .reset => .next (resetCore s, .done)
  | .load bytes =>
    match load bytes s with
    | .next t => .next (t, .loaded)
    | .fault .programTooLarge => .next (s, .programTooLarge)
    | .refused r => .refused r
  | .stepCycle =>
    match stepCycle s with
    | .next (t, o) => .next (t, .cycle o)
    | .fault r => .fault r
    | .refused r => .refused r
  | .tickTimers => .next (tickTimers s, .done)
  | .setKeyState k pressed =>
    if h : k < 16 then .next (setKeyState ⟨k, h⟩ pressed s, .done) else .refused (.keyIndexNotLegal k)
  | .snapshotDisplay => .next (s, .display s.disp)
  | .observeSound => .next (s, .sound (soundActive s) s.st)

/-- One transaction of the host. Before the first reset only reset is a legal call (R197, R214). -/
def hostStep (op : HostOp) : Device → Host.Outcome (Device × Reply) Fault Refusal
  | .created cfg =>
    match op with
    | .reset => .next (.running (State.atReset cfg (Vector.replicate 16 false) 0), .done)
    | _ => .refused .beforeFirstReset
  | .running s =>
    match hostRun op s with
    | .next r => .next (.running r.1, r.2)
    | .fault r => .fault r
    | .refused r => .refused r

end Sys2Proof.Machine
end

