-- ==== Sys2Proof/Safety.lean ====
section
/-! DEFINITION. The terms claims use: what an instruction may change (10_state.md R21 to R33, R36), what a draw covers
(44_display_and_random.md R152), the invariants of a run, and the end states of 60_exceptions.md R198. -/

namespace Sys2Proof.Machine

/-! ## Frames -/

/-- The pieces of state an instruction may change or leave (10_state.md R20). -/
inductive Part where
  | cfg | mem | v | i | pc | stack | sp | dt | st | disp | key | wait | fault | draws
  deriving DecidableEq, Repr

/-- The piece is the same in both states; memory is compared byte by byte. -/
def Part.Same : Part → State → State → Prop
  | .cfg, s, t => t.cfg = s.cfg
  | .mem, s, t => ∀ a, t.byteAt a = s.byteAt a
  | .v, s, t => ∀ r, t.readV r = s.readV r
  | .i, s, t => t.i = s.i
  | .pc, s, t => t.pc = s.pc
  | .stack, s, t => t.stack = s.stack
  | .sp, s, t => t.sp = s.sp
  | .dt, s, t => t.dt = s.dt
  | .st, s, t => t.st = s.st
  | .disp, s, t => ∀ x y, pixelAt t.disp x y = pixelAt s.disp x y
  | .key, s, t => t.key = s.key
  | .wait, s, t => t.wait = s.wait
  | .fault, s, t => t.fault = s.fault
  | .draws, s, t => t.draws = s.draws

/-- Every piece of state outside `changed` is the same in t as in s. -/
def SameExcept (changed : List Part) (s t : State) : Prop := ∀ p, p ∉ changed → p.Same s t

/-- Every register outside `changed` is the same in t as in s. -/
def RegsExcept (changed : List Reg) (s t : State) : Prop := ∀ r, r ∉ changed → t.readV r = s.readV r

/-- What each instruction may write: the "written by" column of 10_state.md R36 and the writers named in R21, R27 to
R33 and 20_memory.md R50. The fault record is written by a fatal condition alone (R33, 60_exceptions.md R180). -/
def mayWrite : Instr → List Part
  | .cls => [.disp, .pc]
  | .ret => [.sp, .pc, .fault]
  | .jp _ => [.pc]
  | .call _ => [.stack, .sp, .pc, .fault]
  | .seImm _ _ => [.pc]
  | .sneImm _ _ => [.pc]
  | .seReg _ _ => [.pc]
  | .ldImm _ _ => [.v, .pc]
  | .addImm _ _ => [.v, .pc]
  | .ldReg _ _ => [.v, .pc]
  | .or _ _ => [.v, .pc]
  | .and _ _ => [.v, .pc]
  | .xor _ _ => [.v, .pc]
  | .addReg _ _ => [.v, .pc]
  | .sub _ _ => [.v, .pc]
  | .shr _ _ => [.v, .pc]
  | .subn _ _ => [.v, .pc]
  | .shl _ _ => [.v, .pc]
  | .sneReg _ _ => [.pc]
  | .ldI _ => [.i, .pc]
  | .jpV0 _ => [.pc]
  | .rnd _ _ => [.v, .draws, .pc]
  | .drw _ _ _ => [.disp, .v, .pc, .fault]
  | .skp _ => [.pc, .fault]
  | .sknp _ => [.pc, .fault]
  | .ldVxDt _ => [.v, .pc]
  | .ldVxK _ => [.v, .wait, .pc]
  | .ldDtVx _ => [.dt, .pc]
  | .ldStVx _ => [.st, .pc]
  | .addIVx _ => [.i, .pc]
  | .ldFVx _ => [.i, .pc]
  | .ldBVx _ => [.mem, .pc, .fault]
  | .ldMemVx _ => [.mem, .pc, .fault]
  | .ldVxMem _ => [.v, .pc, .fault]

/-- The registers each instruction may write: Vx, Vx and VF, VF, or V0..Vx (10_state.md R21, R22). -/
def destRegs : Instr → List Reg
  | .ldImm x _ => [x]
  | .addImm x _ => [x]
  | .ldReg x _ => [x]
  | .or x _ => [x]
  | .and x _ => [x]
  | .xor x _ => [x]
  | .addReg x _ => [x, regVF]
  | .sub x _ => [x, regVF]
  | .shr x _ => [x, regVF]
  | .subn x _ => [x, regVF]
  | .shl x _ => [x, regVF]
  | .rnd x _ => [x]
  | .drw _ _ _ => [regVF]
  | .ldVxDt x => [x]
  | .ldVxK x => [x]
  | .ldVxMem x => (List.finRange 16).filter fun r => decide (r.val ≤ x.val)
  | .cls => []
  | .ret => []
  | .jp _ => []
  | .call _ => []
  | .seImm _ _ => []
  | .sneImm _ _ => []
  | .seReg _ _ => []
  | .sneReg _ _ => []
  | .ldI _ => []
  | .jpV0 _ => []
  | .skp _ => []
  | .sknp _ => []
  | .ldDtVx _ => []
  | .ldStVx _ => []
  | .addIVx _ => []
  | .ldFVx _ => []
  | .ldBVx _ => []
  | .ldMemVx _ => []

/-- The instruction, having left t and raised nothing, returns Advanced (30_encoding.md R82). -/
def Advances (i : Instr) (t : State) : Prop := completion i t = .advanced

/-! ## Encodings and data ranges -/

/-- Every word w with w &&& mask = value decodes to the instruction f reads from it (30_encoding.md R74). -/
def EncodedBy (value mask : Word) (f : Word → Instr) : Prop :=
  ∀ w : Word, w &&& mask = value → decode w = .instr (f w)

/-- A data range of count bytes at I raises nothing: it wraps, or is empty, or ends by 0xFFF (20_memory.md R67). -/
def RangeOk (s : State) (count : Nat) : Prop :=
  s.cfg.dataOob = .wrap ∨ count = 0 ∨ s.i.toNat + count ≤ 0x1000

/-- The location of the byte at I + k: the exact sum, which under Wrap is reduced modulo 4096 (R52, R53). -/
def dataLoc (s : State) (k : Nat) : Nat := (s.i.toNat + k) % 4096

/-- The word at pc, as the next cycle would decode it. -/
def NextWord (s : State) (w : Word) : Prop := fetchWord s s.pc = .ok w

/-! ## What a draw covers (R152) -/

/-- The n-row sprite at I, drawn at (vx, vy), has a 1 bit on pixel (px, py), coordinates wrapped. -/
def spriteCovers (s : State) (vx vy n : Nat) (px : Fin 64) (py : Fin 32) : Prop :=
  ∃ r c, r < n ∧ c < 8 ∧ px.val = (vx + c) % 64 ∧ py.val = (vy + r) % 32 ∧
    spriteBit s.cfg.spriteOrder (s.byteAt (dataLoc s r)) c = true

/-! ## Invariants -/

/-- The fault record names a condition that holds: what was raised is still there to see (60_exceptions.md R180). -/
def FaultExplained (s : State) : Prop :=
  match s.fault with
  | none => True
  | some .stackOverflow => s.sp.val = 16
  | some .stackUnderflow => s.sp.val = 0
  | some (.addressOutOfRange .fetch p) => p = s.pc.toNat ∧ 0xFFF ≤ p
  | some (.addressOutOfRange .data a) =>
    s.cfg.dataOob = .fault ∧ a = max s.i.toNat 0x1000 ∧ a ≤ s.i.toNat + 15
  | some (.keyIndexOutOfRange k) => s.cfg.keyOob = .fault ∧ 0xF < k.toNat ∧ ∃ x, s.readV x = k

/-- What every step and every host operation keeps. -/
structure Inv (s : State) : Prop where
  /-- Memory keeps its canonical form and stays inside 0x000..0xFFF (20_memory.md R50). -/
  memory : Memory.wf s.cfg s.mem
  /-- No control transfer passes 0x10FE (10_state.md R24). -/
  pcBound : s.pc.toNat ≤ 0x10FE
  /-- Every stack entry in use is a return address, at most 0x1000 (40_control_flow.md R100). -/
  stackBound : ∀ j, (h : j < 16) → j < s.sp.val → s.stack[j].toNat ≤ 0x1000
  /-- The fault record is truthful. -/
  faultTrue : FaultExplained s

/-- A pending wait belongs to the Fx0A at pc (10_state.md R32, 30_encoding.md R81). -/
def WaitAtInstr (s : State) : Prop :=
  ∀ x latched, s.wait = .awaiting x latched → ∃ w, NextWord s w ∧ decode w = .instr (.ldVxK x)

/-! ## Safe runs and end states (60_exceptions.md R198) -/

/-- No fatal condition has occurred. -/
def Safe (s : State) : Prop := s.fault = none

/-- (a) idle: unhalted, not waiting, and the word at pc jumps to itself. -/
def IdleLoop (s : State) : Prop :=
  s.fault = none ∧ s.wait = .idle ∧
    ∃ w nnn, NextWord s w ∧ decode w = .instr (.jp nnn) ∧ nnn.toNat = s.pc.toNat

/-- (b) faulted. -/
def Faulted (s : State) (k : FatalKind) : Prop := s.fault = some k

/-- (c) waiting: the word at pc is Fx0A and its wait has no edge latched. A halted machine can be in this state too. -/
def WaitingForKey (s : State) (x : Reg) : Prop :=
  s.wait = .awaiting x none ∧ ∃ w, NextWord s w ∧ decode w = .instr (.ldVxK x)

/-- Key events the host sends one after the other. -/
def keyEvents (events : List (Fin 16 × Bool)) (s : State) : State :=
  events.foldl (fun t e => setKeyState e.1 e.2 t) s

end Sys2Proof.Machine
end

