-- ==== Sys2Proof/Certificates/Slice0/Obligations.lean ====
section
/-! DEFINITION. The statements for the provers, one `def Obligations.<Name> : Prop` each, after the numbered rules of
spec/. Each says when an instruction completes, what it leaves and what it leaves alone. Statements about a free
value or a parameter hold for every value of it: they quantify over every state, and so over State.cfg. -/

open Sys2Proof Sys2Proof.Machine

/-! ## Reset and the host's operations -/

/-- R210, R39, R23. `reset()` from any state. That the key latch, the stack entries and the wait stand as they do is
decision D13 (log 13); that the parameters are kept is log 2. -/
def Obligations.ResetLeavesListedState : Prop :=
  (∀ s : State, (resetCore s).pc = 0x200 ∧ (resetCore s).i = 0 ∧ (resetCore s).sp.val = 0 ∧
      (∀ r, (resetCore s).readV r = 0) ∧ (resetCore s).dt = 0 ∧ (resetCore s).st = 0 ∧
      (∀ x y, pixelAt (resetCore s).disp x y = false) ∧
      (∀ j, (h : j < 16) → (resetCore s).stack[j] = 0) ∧
      (resetCore s).wait = .idle ∧ (resetCore s).fault = none ∧
      (∀ a, (h : a < 0x050) → (resetCore s).byteAt a = s.cfg.font[a]) ∧
      (∀ a, 0x050 ≤ a → a ≤ 0xFFF → (resetCore s).byteAt a = 0) ∧
      (resetCore s).key = s.key ∧ (resetCore s).cfg = s.cfg) ∧
    (∀ k, State.reset.keyAt k = false) ∧ resetCore State.reset = State.reset

/-- R211. Reset twice is reset once; what reset leaves depends on FONT_TABLE and the key latch alone; and the font
region holds the table whatever was there. The draw count and the other parameters are the model's own (log 2, 7). -/
def Obligations.ResetIdempotent : Prop :=
  (∀ s : State, resetCore (resetCore s) = resetCore s) ∧
    (∀ s t : State, s.cfg.font = t.cfg.font → s.key = t.key →
      SameExcept [.cfg, .draws] (resetCore s) (resetCore t)) ∧
    (∀ (s : State) (a : Nat) (h : a < 80), (resetCore s).byteAt a = s.cfg.font[a])

/-- R213. An image of at most 3584 bytes lands at 0x200 and nothing else changes (that no register changes is decision
D26, log 16); a longer one is rejected before any write. -/
def Obligations.LoadPlacesImageOrRejects : Prop :=
  (∀ (bytes : List Byte) (s : State), bytes.length ≤ 3584 →
      ∃ t, load bytes s = .next t ∧ hostRun (.load bytes) s = .next (t, .loaded) ∧
        (∀ k, (h : k < bytes.length) → t.byteAt (0x200 + k) = bytes[k]) ∧
        (∀ a, (a < 0x200 ∨ 0x200 + bytes.length ≤ a) → t.byteAt a = s.byteAt a) ∧
        SameExcept [.mem] s t) ∧
    (∀ (bytes : List Byte) (s : State), 3584 < bytes.length →
      load bytes s = .fault .programTooLarge ∧ hostRun (.load bytes) s = .next (s, .programTooLarge))

/-- R166. A tick lowers each nonzero timer by one and changes nothing else, in every state (running, blocked or halted:
decision D14, log 18). -/
def Obligations.TickLowersNonzeroTimers : Prop :=
  ∀ s : State, (tickTimers s).dt.toNat = s.dt.toNat - 1 ∧ (tickTimers s).st.toNat = s.st.toNat - 1 ∧
    SameExcept [.dt, .st] s (tickTimers s) ∧ hostRun .tickTimers s = .next (tickTimers s, .done)

/-- R167. The latch takes the value; the first edge since a wait began is kept for it; nothing else changes. An index
outside 0..15 is no legal call (decision D23, log 17). -/
def Obligations.KeyInputLatchesFirstEdge : Prop :=
  (∀ (k : Fin 16) (pressed : Bool) (s : State),
      (∀ j, (setKeyState k pressed s).keyAt j = if j = k then pressed else s.keyAt j) ∧
      SameExcept [.key, .wait] s (setKeyState k pressed s) ∧
      (∀ x, s.wait = .awaiting x none → pressed = true → s.keyAt k = false →
        (setKeyState k pressed s).wait = .awaiting x (some k)) ∧
      ((pressed = false ∨ s.keyAt k = true ∨ ∀ x, s.wait ≠ .awaiting x none) →
        (setKeyState k pressed s).wait = s.wait) ∧
      hostRun (.setKeyState k.val pressed) s = .next (setKeyState k pressed s, .done)) ∧
    (∀ (k : Nat) (pressed : Bool) (s : State), 16 ≤ k →
      hostRun (.setKeyState k pressed) s = .refused (.keyIndexNotLegal k))

/-- R153, R168. The display snapshot and the sound observation return what the state holds and change nothing. -/
def Obligations.ObservationsChangeNothing : Prop :=
  ∀ s : State, hostRun .snapshotDisplay s = .next (s, .display s.disp) ∧
    (∃ active, hostRun .observeSound s = .next (s, .sound active s.st) ∧ (active = true ↔ s.st.toNat ≠ 0))

/-- R197, R214, R31. Before the first reset only reset is a legal call, and it gives the reset state of the machine's own
parameters with no key pressed, for the default parameters State.reset; on a running machine every call with a legal key
index is answered with a next state (log 17). The draw count is State.reset's, whatever that is (log 7). -/
def Obligations.HostDutiesAndLiberties : Prop :=
  (∀ (c : Config) (op : HostOp), op ≠ .reset → hostStep op (.created c) = .refused .beforeFirstReset) ∧
    (∀ c : Config, hostStep .reset (.created c) =
      .next (.running (State.atReset c (Vector.replicate 16 false) State.reset.draws), .done)) ∧
    hostStep .reset (.created defaultConfig) = .next (.running State.reset, .done) ∧
    (∀ (op : HostOp) (s : State), (∀ k p, op = .setKeyState k p → k < 16) →
      ∃ t r, hostStep op (.running s) = .next (.running t, r))

/-! ## The cycle -/

/-- R54. The fetch: its bound is always checked, whatever DATA_OOB_POLICY says; below it the word is the two bytes. -/
def Obligations.FetchIsBoundChecked : Prop :=
  ∀ (s : State) (p : Word),
    (p.toNat + 1 > 0xFFF → fetchWord s p = .error (.addressOutOfRange .fetch p.toNat)) ∧
    (p.toNat + 1 ≤ 0xFFF → ∃ w, fetchWord s p = .ok w ∧
      w = (s.byteAt p.toNat).setWidth 16 <<< 8 ||| (s.byteAt (p.toNat + 1)).setWidth 16)

/-- R180, R182, R184. A cycle whose fetch is out of bounds writes the fault record and nothing else (precision is
decision D6, log 10). -/
def Obligations.FetchFaultHaltsAtPc : Prop :=
  ∀ s : State, s.fault = none → 0xFFF ≤ s.pc.toNat →
    ∃ t, stepCycle s = .next (t, .fault (.addressOutOfRange .fetch s.pc.toNat)) ∧ step s = .next t ∧
      t.fault = some (.addressOutOfRange .fetch s.pc.toNat) ∧ SameExcept [.fault] s t

/-- R181. An Unknown word: pc moves to NEXT, the word is reported, and only a pending wait is
discarded besides (decision D8, log 11). -/
def Obligations.UnknownOpcodeAdvances : Prop :=
  ∀ (s : State) (w v : Word), s.fault = none → fetchWord s s.pc = .ok w → decode w = .unknown v →
    v = w ∧ ∃ t, stepCycle s = .next (t, .unknownOpcode w) ∧ step s = .next t ∧ t.pc = s.pc + 2 ∧
      t.wait = .idle ∧ t.fault = none ∧ SameExcept [.pc, .wait] s t

/-- R81, R82. When the bytes at pc decode to an instruction, the step is exec of it on the state in which a wait of
another instruction is discarded (decision D8, log 11), and with a fatal condition the whole cycle is undone but for
the record (decision D6, log 10). Every instruction but Fx0A that raises nothing returns Advanced; Fx0A returns
Blocked while its wait is unresolved (R82). -/
def Obligations.StepRunsDecodedInstruction : Prop :=
  ∀ (s : State) (i : Instr), s.fault = none → s.pc.toNat < 0xFFF →
    decode (wordOfBytes (s.byteAt s.pc.toNat) (s.byteAt (s.pc.toNat + 1))) = .instr i →
    ∃ s0, (s0 = s ∨ s0 = s.setWait .idle) ∧
      (∀ x l, i = .ldVxK x → s.wait = .awaiting x l → s0 = s) ∧
      (∀ y l, s.wait = .awaiting y l → i ≠ .ldVxK y → s0.wait = .idle) ∧
      (∀ t, exec i s0 = .next t → t.fault = none → step s = .next t ∧
        ((∀ x, i ≠ .ldVxK x) → stepCycle s = .next (t, .advanced)) ∧
        (∀ x, i = .ldVxK x → stepCycle s = .next (t, if t.wait = .idle then .advanced else .blocked))) ∧
      (∀ t k, exec i s0 = .next t → t.fault = some k → step s = .next (raise k s))

/-- R195, R82. The four outcomes, and what each says of the state before and after. That no wait is pending after
Advanced rests on the stale-wait discard (decision D8, log 11), and what Blocked says of the wait on the key wait's
mechanism (decision D7, log 12). -/
def Obligations.OutcomesReportTheCycle : Prop :=
  ∀ (s t : State) (o : CycleOutcome), stepCycle s = .next (t, o) →
    match o with
    | .advanced => t.fault = none ∧ s.fault = none ∧ t.wait = .idle ∧ ∃ w i, NextWord s w ∧ decode w = .instr i
    | .blocked => t.fault = none ∧ t.pc = s.pc ∧
        ∃ w x, NextWord s w ∧ decode w = .instr (.ldVxK x) ∧ t.wait = .awaiting x none
    | .unknownOpcode v => t.fault = none ∧ t.pc = s.pc + 2 ∧ NextWord s v ∧ decode v = .unknown v
    | .fault k => t.fault = some k ∧ (s.fault = some k ∨ s.fault = none)

/-- R182. A fatal condition is precise: nothing of the cycle takes effect but the record (decision D6, log 10). Said of
each instruction's meaning and of the whole cycle. -/
def Obligations.FatalConditionIsPrecise : Prop :=
  (∀ (i : Instr) (s t : State) (k : FatalKind), s.fault = none → exec i s = .next t → t.fault = some k →
      SameExcept [.fault] s t) ∧
    (∀ (s t : State) (k : FatalKind), s.fault = none → step s = .next t → t.fault = some k →
      stepCycle s = .next (t, .fault k) ∧ SameExcept [.fault] s t)

/-- R183, R186. While halted a cycle changes nothing and returns the recorded fault; the other operations work as their
rules say (decision D14, log 18); none but reset clears the record. -/
def Obligations.HaltedUntilReset : Prop :=
  ∀ (s : State) (k : FatalKind), s.fault = some k →
    stepCycle s = .next (s, .fault k) ∧ step s = .next s ∧ (resetCore s).fault = none ∧
      (∀ op t r, op ≠ HostOp.reset → hostRun op s = .next (t, r) → t.fault = some k)

/-- Every instruction completes with a next state, and so does every cycle: no word and no state is refused, and no
cycle ends in a fault of the host's interface (R195; log 8). -/
def Obligations.EveryCycleCompletes : Prop :=
  (∀ (i : Instr) (s : State), ∃ t, exec i s = .next t) ∧
    (∀ s : State, ∃ t o, stepCycle s = .next (t, o) ∧ step s = .next t)

/-! ## Encoding -/

/-- R70, R71. The fields are the bits the format gives them. -/
def Obligations.FieldsAreTheirBits : Prop :=
  ∀ w : Word, opField w = (w.extractLsb' 12 4).toNat ∧ (xField w).val = (w.extractLsb' 8 4).toNat ∧
    (yField w).val = (w.extractLsb' 4 4).toNat ∧ nField w = (w.extractLsb' 0 4).toNat ∧
    nnField w = w.extractLsb' 0 8 ∧ selField w = (w.extractLsb' 0 8).toNat ∧ nnnField w = w.extractLsb' 0 12

/-- Decoding the word of a well-formed instruction gives it back, with every operand at every value (R73, R74). -/
def Obligations.DecodeOfEncode : Prop :=
  ∀ i : Instr, WellFormed i = true → decode (encode i) = .instr i ∧ decodeBytes (encodeBytes i) = .instr i []

/-- Each word has one meaning: what a word decodes to is well formed and encodes to that word (R73, R74). -/
def Obligations.EncodeOfDecode : Prop :=
  ∀ (w : Word) (i : Instr), decode w = .instr i → WellFormed i = true ∧ encode i = w

/-- The two-level decode agrees with the mask and match table: a word is an instruction exactly when a row selects it,
the row bears the instruction's mnemonic, and no two rows select the same word (R74, R75). -/
def Obligations.DecodeAgreesWithTable : Prop :=
  (∀ (w : Word) (r : Row), r ∈ opcodeTable → r.selects w = true →
      ∃ i, decode w = .instr i ∧ mnemonicOf i = r.mnemonic) ∧
    (∀ w : Word, (∀ r ∈ opcodeTable, r.selects w = false) → decode w = .unknown w) ∧
    (∀ (w : Word) (r r' : Row), r ∈ opcodeTable → r' ∈ opcodeTable → r.selects w = true → r'.selects w = true →
      r = r')

/-- Words written out from the patterns of the opcode map decode to the instructions they stand for (R74, R75). -/
def Obligations.DecodesWrittenOutWords : Prop :=
  decode 0x00E0 = .instr .cls ∧ decode 0x00EE = .instr .ret ∧ decode 0x1ABC = .instr (.jp 0xABC) ∧
    decode 0x3A42 = .instr (.seImm 0xA 0x42) ∧ decode 0x8124 = .instr (.addReg 1 2) ∧
    decode 0xA123 = .instr (.ldI 0x123) ∧ decode 0xD125 = .instr (.drw 1 2 5) ∧
    decode 0xE19E = .instr (.skp 1) ∧ decode 0xF50A = .instr (.ldVxK 5) ∧ decode 0xF265 = .instr (.ldVxMem 2) ∧
    decode 0x0000 = .unknown 0x0000 ∧ decode 0x5011 = .unknown 0x5011 ∧ decode 0x8008 = .unknown 0x8008

/-! ## Control flow -/

/-- R101. A target of 0xFFF faults at the next fetch. -/
def Obligations.JumpSetsPc : Prop :=
  EncodedBy 0x1000 0xF000 (fun w => .jp (nnnField w)) ∧
    ∀ (nnn : Addr12) (s : State), ∃ t, exec (.jp nnn) s = .next t ∧ Advances (.jp nnn) t ∧
      t.pc.toNat = nnn.toNat ∧ (nnn.toNat = 0xFFF → fetchWord t t.pc = .error (.addressOutOfRange .fetch 0xFFF)) ∧
      SameExcept [.pc] s t

/-- R103. The offset register is always V0 and the target is not reduced modulo 4096; a target of
0xFFF or more faults at the next fetch. -/
def Obligations.JumpOffsetAddsV0 : Prop :=
  EncodedBy 0xB000 0xF000 (fun w => .jpV0 (nnnField w)) ∧
    ∀ (nnn : Addr12) (s : State), ∃ t, exec (.jpV0 nnn) s = .next t ∧ Advances (.jpV0 nnn) t ∧
      t.pc.toNat = nnn.toNat + (s.readV 0).toNat ∧
      (0xFFF ≤ t.pc.toNat → fetchWord t t.pc = .error (.addressOutOfRange .fetch t.pc.toNat)) ∧ SameExcept [.pc] s t

/-- R102, R28. The call pushes the address after it (decision D27, log 21) and jumps; with sixteen entries in use it
raises StackOverflow and writes nothing else. -/
def Obligations.CallPushesReturnAddress : Prop :=
  EncodedBy 0x2000 0xF000 (fun w => .call (nnnField w)) ∧
    (∀ (nnn : Addr12) (s : State), s.sp.val < 16 →
      ∃ t, exec (.call nnn) s = .next t ∧ t.pc.toNat = nnn.toNat ∧ t.sp.val = s.sp.val + 1 ∧
        (∀ j, (h : j < 16) → t.stack[j] = if j = s.sp.val then s.pc + 2 else s.stack[j]) ∧
        SameExcept [.pc, .sp, .stack] s t) ∧
    (∀ (nnn : Addr12) (s : State), s.sp.val = 16 →
      ∃ t, exec (.call nnn) s = .next t ∧ t.fault = some .stackOverflow ∧ SameExcept [.fault] s t)

/-- R100, R28. The return takes the popped value as it is and leaves the entry in place; with no entry in use it raises
StackUnderflow and writes nothing else (decisions D12, D27; log 20, 21). -/
def Obligations.ReturnPopsIntoPc : Prop :=
  EncodedBy 0x00EE 0xFFFF (fun _ => .ret) ∧
    (∀ (s : State) (n : Nat) (h : n < 16), s.sp.val = n + 1 →
      ∃ t, exec .ret s = .next t ∧ t.pc = s.stack[n] ∧ t.sp.val = n ∧ SameExcept [.pc, .sp] s t) ∧
    (∀ s : State, s.sp.val = 0 →
      ∃ t, exec .ret s = .next t ∧ t.fault = some .stackUnderflow ∧ SameExcept [.fault] s t)

/-- A call and the return that matches it come back to the word after the call with the stack pointer restored, whatever
ran in between, as long as that left the call's entry and the pointer alone (R100, R102; decision D27, log 21): nested
calls too, whose popped addresses stay in the entries above (R28). -/
def Obligations.ReturnResumesAfterCall : Prop :=
  ∀ (nnn : Addr12) (s t u : State) (_ : s.sp.val < 16), exec (.call nnn) s = .next t →
    u.sp = t.sp → u.stack[s.sp.val] = t.stack[s.sp.val] → ∃ r, exec .ret u = .next r ∧ r.pc = s.pc + 2 ∧ r.sp = s.sp

/-! ## Skips -/

/-- R110, R111. -/
def Obligations.ImmediateSkips : Prop :=
  EncodedBy 0x3000 0xF000 (fun w => .seImm (xField w) (nnField w)) ∧
    EncodedBy 0x4000 0xF000 (fun w => .sneImm (xField w) (nnField w)) ∧
    ∀ (x : Reg) (nn : Byte) (s : State),
      (∃ t, exec (.seImm x nn) s = .next t ∧ Advances (.seImm x nn) t ∧
        t.pc = (if s.readV x = nn then s.pc + 4 else s.pc + 2) ∧
        SameExcept [.pc] s t) ∧
      (∃ t, exec (.sneImm x nn) s = .next t ∧ Advances (.sneImm x nn) t ∧
        t.pc = (if s.readV x = nn then s.pc + 2 else s.pc + 4) ∧
        SameExcept [.pc] s t)

/-- R112, R113. The low nibble must be 0: any other word of groups 5 and 9 is Unknown. -/
def Obligations.RegisterSkips : Prop :=
  EncodedBy 0x5000 0xF00F (fun w => .seReg (xField w) (yField w)) ∧
    EncodedBy 0x9000 0xF00F (fun w => .sneReg (xField w) (yField w)) ∧
    (∀ w : Word, (w &&& 0xF000 = 0x5000 ∨ w &&& 0xF000 = 0x9000) → w &&& 0x000F ≠ 0 → decode w = .unknown w) ∧
    ∀ (x y : Reg) (s : State),
      (∃ t, exec (.seReg x y) s = .next t ∧ Advances (.seReg x y) t ∧
        t.pc = (if s.readV x = s.readV y then s.pc + 4 else s.pc + 2) ∧ SameExcept [.pc] s t) ∧
      (∃ t, exec (.sneReg x y) s = .next t ∧ Advances (.sneReg x y) t ∧
        t.pc = (if s.readV x = s.readV y then s.pc + 2 else s.pc + 4) ∧ SameExcept [.pc] s t)

/-- R160, R161. The key skips read the latch at the low nibble of Vx when Vx names a key or KEY_OOB_POLICY is LowNibble,
and raise KeyIndexOutOfRange(Vx) when it does not and the policy is Fault (decision D4, log 4). -/
def Obligations.KeySkips : Prop :=
  EncodedBy 0xE09E 0xF0FF (fun w => .skp (xField w)) ∧ EncodedBy 0xE0A1 0xF0FF (fun w => .sknp (xField w)) ∧
    (∀ (x : Reg) (k : Fin 16) (s : State), k.val = (s.readV x).toNat % 16 →
      ((s.readV x).toNat ≤ 0xF ∨ s.cfg.keyOob = .lowNibble) →
      (∃ t, exec (.skp x) s = .next t ∧ t.pc = (if s.keyAt k = true then s.pc + 4 else s.pc + 2) ∧
        SameExcept [.pc] s t) ∧
      (∃ t, exec (.sknp x) s = .next t ∧ t.pc = (if s.keyAt k = true then s.pc + 2 else s.pc + 4) ∧
        SameExcept [.pc] s t)) ∧
    (∀ (x : Reg) (i : Instr) (s : State), (i = .skp x ∨ i = .sknp x) → 0xF < (s.readV x).toNat →
      s.cfg.keyOob = .fault →
      ∃ t, exec i s = .next t ∧ t.fault = some (.keyIndexOutOfRange (s.readV x)) ∧ SameExcept [.fault] s t)

/-! ## Registers and the ALU -/

/-- R120, R121, R122. Loads, the add without a carry flag, and the copy. -/
def Obligations.LoadsAndImmediateAdd : Prop :=
  EncodedBy 0x6000 0xF000 (fun w => .ldImm (xField w) (nnField w)) ∧
    EncodedBy 0x7000 0xF000 (fun w => .addImm (xField w) (nnField w)) ∧
    EncodedBy 0x8000 0xF00F (fun w => .ldReg (xField w) (yField w)) ∧
    ∀ (x y : Reg) (nn : Byte) (s : State),
      (∃ t, exec (.ldImm x nn) s = .next t ∧ Advances (.ldImm x nn) t ∧
        t.readV x = nn ∧ RegsExcept [x] s t ∧ t.pc = s.pc + 2 ∧
        SameExcept [.v, .pc] s t) ∧
      (∃ t, exec (.addImm x nn) s = .next t ∧ Advances (.addImm x nn) t ∧
        (t.readV x).toNat = ((s.readV x).toNat + nn.toNat) % 256 ∧
        RegsExcept [x] s t ∧ t.pc = s.pc + 2 ∧ SameExcept [.v, .pc] s t) ∧
      (∃ t, exec (.ldReg x y) s = .next t ∧ Advances (.ldReg x y) t ∧
        t.readV x = s.readV y ∧ RegsExcept [x] s t ∧ t.pc = s.pc + 2 ∧
        SameExcept [.v, .pc] s t)

/-- R123, R124, R125. Bit by bit; VF is left alone unless it is Vx (decision D16, log 23). -/
def Obligations.LogicIsBitwise : Prop :=
  EncodedBy 0x8001 0xF00F (fun w => .or (xField w) (yField w)) ∧
    EncodedBy 0x8002 0xF00F (fun w => .and (xField w) (yField w)) ∧
    EncodedBy 0x8003 0xF00F (fun w => .xor (xField w) (yField w)) ∧
    ∀ (x y : Reg) (s : State),
      (∃ t, exec (.or x y) s = .next t ∧
        (∀ b, (t.readV x).getLsbD b = ((s.readV x).getLsbD b || (s.readV y).getLsbD b)) ∧
        RegsExcept [x] s t ∧ t.pc = s.pc + 2 ∧ SameExcept [.v, .pc] s t) ∧
      (∃ t, exec (.and x y) s = .next t ∧
        (∀ b, (t.readV x).getLsbD b = ((s.readV x).getLsbD b && (s.readV y).getLsbD b)) ∧
        RegsExcept [x] s t ∧ t.pc = s.pc + 2 ∧ SameExcept [.v, .pc] s t) ∧
      (∃ t, exec (.xor x y) s = .next t ∧
        (∀ b, (t.readV x).getLsbD b = ((s.readV x).getLsbD b ^^ (s.readV y).getLsbD b)) ∧
        RegsExcept [x] s t ∧ t.pc = s.pc + 2 ∧ SameExcept [.v, .pc] s t)

/-- R126. The exact sum decides the carry; VF is written last, so with x = 0xF it ends as the carry. -/
def Obligations.AddWritesSumThenCarry : Prop :=
  EncodedBy 0x8004 0xF00F (fun w => .addReg (xField w) (yField w)) ∧
    ∀ (x y : Reg) (s : State), ∃ t, exec (.addReg x y) s = .next t ∧ Advances (.addReg x y) t ∧
      (x ≠ 0xF → (t.readV x).toNat = ((s.readV x).toNat + (s.readV y).toNat) % 256) ∧
      t.readV 0xF = (if (s.readV x).toNat + (s.readV y).toNat > 255 then 1 else 0) ∧
      RegsExcept [x, 0xF] s t ∧ t.pc = s.pc + 2 ∧ SameExcept [.v, .pc] s t

/-- R127. -/
def Obligations.SubWritesDifferenceThenNotBorrow : Prop :=
  EncodedBy 0x8005 0xF00F (fun w => .sub (xField w) (yField w)) ∧
    ∀ (x y : Reg) (s : State), ∃ t, exec (.sub x y) s = .next t ∧ Advances (.sub x y) t ∧
      (x ≠ 0xF → (t.readV x).toNat = ((s.readV x).toNat + 256 - (s.readV y).toNat) % 256) ∧
      t.readV 0xF = (if (s.readV y).toNat > (s.readV x).toNat then 0 else 1) ∧
      RegsExcept [x, 0xF] s t ∧ t.pc = s.pc + 2 ∧ SameExcept [.v, .pc] s t

/-- R129. -/
def Obligations.SubnWritesDifferenceThenNotBorrow : Prop :=
  EncodedBy 0x8007 0xF00F (fun w => .subn (xField w) (yField w)) ∧
    ∀ (x y : Reg) (s : State), ∃ t, exec (.subn x y) s = .next t ∧ Advances (.subn x y) t ∧
      (x ≠ 0xF → (t.readV x).toNat = ((s.readV y).toNat + 256 - (s.readV x).toNat) % 256) ∧
      t.readV 0xF = (if (s.readV x).toNat > (s.readV y).toNat then 0 else 1) ∧
      RegsExcept [x, 0xF] s t ∧ t.pc = s.pc + 2 ∧ SameExcept [.v, .pc] s t

/-- R128, R130. The bit shifted out is captured before Vx is overwritten and VF is written last; Vy plays no part
(decision D17, log 24). -/
def Obligations.ShiftsMoveOneBitThenFlag : Prop :=
  EncodedBy 0x8006 0xF00F (fun w => .shr (xField w) (yField w)) ∧
    EncodedBy 0x800E 0xF00F (fun w => .shl (xField w) (yField w)) ∧
    ∀ (x y : Reg) (s : State),
      (∃ t, exec (.shr x y) s = .next t ∧ (x ≠ 0xF → (t.readV x).toNat = (s.readV x).toNat / 2) ∧
        (t.readV 0xF).toNat = (s.readV x).toNat % 2 ∧
        RegsExcept [x, 0xF] s t ∧ t.pc = s.pc + 2 ∧ SameExcept [.v, .pc] s t) ∧
      (∃ t, exec (.shl x y) s = .next t ∧ (x ≠ 0xF → (t.readV x).toNat = (s.readV x).toNat * 2 % 256) ∧
        (t.readV 0xF).toNat = (s.readV x).toNat / 128 ∧
        RegsExcept [x, 0xF] s t ∧ t.pc = s.pc + 2 ∧ SameExcept [.v, .pc] s t)

/-! ## The index register and memory -/

/-- R140, R141. Annn clears the upper four bits; Fx1E wraps modulo 65536 and writes no flag. -/
def Obligations.IndexLoadAndAdd : Prop :=
  EncodedBy 0xA000 0xF000 (fun w => .ldI (nnnField w)) ∧ EncodedBy 0xF01E 0xF0FF (fun w => .addIVx (xField w)) ∧
    ∀ (nnn : Addr12) (x : Reg) (s : State),
      (∃ t, exec (.ldI nnn) s = .next t ∧ Advances (.ldI nnn) t ∧
        t.i.toNat = nnn.toNat ∧ t.pc = s.pc + 2 ∧ SameExcept [.i, .pc] s t) ∧
      (∃ t, exec (.addIVx x) s = .next t ∧ Advances (.addIVx x) t ∧
        t.i.toNat = (s.i.toNat + (s.readV x).toNat) % 65536 ∧
        t.pc = s.pc + 2 ∧ SameExcept [.i, .pc] s t)

/-- R142. The whole byte counts, not its low nibble (decision D18, log 25). -/
def Obligations.GlyphAddressIsTimesFive : Prop :=
  EncodedBy 0xF029 0xF0FF (fun w => .ldFVx (xField w)) ∧
    ∀ (x : Reg) (s : State), ∃ t, exec (.ldFVx x) s = .next t ∧ t.i.toNat = (s.readV x).toNat * 5 ∧
      t.pc = s.pc + 2 ∧ SameExcept [.i, .pc] s t

/-- R143. The three digits at I, I+1, I+2 and no other byte; a range past 0xFFF under Fault raises at its lowest bad
address and writes nothing (decisions D2, D6, D15; log 3, 10, 22). -/
def Obligations.BcdStoresThreeDigits : Prop :=
  EncodedBy 0xF033 0xF0FF (fun w => .ldBVx (xField w)) ∧
    (∀ (x : Reg) (s : State), RangeOk s 3 → ∃ t, exec (.ldBVx x) s = .next t ∧
      (t.byteAt (dataLoc s 0)).toNat = (s.readV x).toNat / 100 ∧
      (t.byteAt (dataLoc s 1)).toNat = (s.readV x).toNat / 10 % 10 ∧
      (t.byteAt (dataLoc s 2)).toNat = (s.readV x).toNat % 10 ∧
      (∀ a, (∀ k, k < 3 → a ≠ dataLoc s k) → t.byteAt a = s.byteAt a) ∧
      t.pc = s.pc + 2 ∧ SameExcept [.mem, .pc] s t) ∧
    (∀ (x : Reg) (s : State), ¬ RangeOk s 3 → ∃ t, exec (.ldBVx x) s = .next t ∧
      t.fault = some (.addressOutOfRange .data (max s.i.toNat 0x1000)) ∧ SameExcept [.fault] s t)

/-- R144. V0..Vx at I.. and no other byte; I is unchanged (decisions D2, D6, D15; log 3, 10, 22). -/
def Obligations.RegisterStoreWritesBlock : Prop :=
  EncodedBy 0xF055 0xF0FF (fun w => .ldMemVx (xField w)) ∧
    (∀ (x : Reg) (s : State), RangeOk s (x.val + 1) → ∃ t, exec (.ldMemVx x) s = .next t ∧
      (∀ r : Reg, r.val ≤ x.val → t.byteAt (dataLoc s r.val) = s.readV r) ∧
      (∀ a, (∀ k, k ≤ x.val → a ≠ dataLoc s k) → t.byteAt a = s.byteAt a) ∧
      t.pc = s.pc + 2 ∧ SameExcept [.mem, .pc] s t) ∧
    (∀ (x : Reg) (s : State), ¬ RangeOk s (x.val + 1) → ∃ t, exec (.ldMemVx x) s = .next t ∧
      t.fault = some (.addressOutOfRange .data (max s.i.toNat 0x1000)) ∧ SameExcept [.fault] s t)

/-- R145. V0..Vx from I.., the registers above Vx, I and memory unchanged (decisions D2, D6, D15; log 3, 10, 22). -/
def Obligations.RegisterLoadReadsBlock : Prop :=
  EncodedBy 0xF065 0xF0FF (fun w => .ldVxMem (xField w)) ∧
    (∀ (x : Reg) (s : State), RangeOk s (x.val + 1) → ∃ t, exec (.ldVxMem x) s = .next t ∧
      (∀ r : Reg, t.readV r = if r.val ≤ x.val then s.byteAt (dataLoc s r.val) else s.readV r) ∧
      t.pc = s.pc + 2 ∧ SameExcept [.v, .pc] s t) ∧
    (∀ (x : Reg) (s : State), ¬ RangeOk s (x.val + 1) → ∃ t, exec (.ldVxMem x) s = .next t ∧
      t.fault = some (.addressOutOfRange .data (max s.i.toNat 0x1000)) ∧ SameExcept [.fault] s t)

/-- Fx55 then Fx65 for the same x restores V0..Vx, if what ran in between left I and the stored bytes as Fx55 left them
(R144, R145, W12). -/
def Obligations.StoreThenLoadRestoresRegisters : Prop :=
  ∀ (x : Reg) (s t u : State), RangeOk s (x.val + 1) → exec (.ldMemVx x) s = .next t →
    u.cfg = t.cfg → u.i = t.i → (∀ k, k ≤ x.val → u.byteAt (dataLoc s k) = t.byteAt (dataLoc s k)) →
    ∃ r, exec (.ldVxMem x) u = .next r ∧ ∀ j : Reg, j.val ≤ x.val → r.readV j = s.readV j

/-- A word of a program that Fx55 has just overwritten is fetched as it now stands, with no fence and no delay, even at
the store's own address (R64, R217; decision D22, log 27). -/
def Obligations.StoredCodeIsFetched : Prop :=
  ∀ (x : Reg) (s t : State) (p : Word), RangeOk s (x.val + 1) → exec (.ldMemVx x) s = .next t →
    ∀ r r' : Reg, r.val ≤ x.val → r'.val ≤ x.val → p.toNat = dataLoc s r.val → p.toNat + 1 = dataLoc s r'.val →
      fetchWord t p = .ok (wordOfBytes (s.readV r) (s.readV r'))

/-! ## Display and random -/

/-- R150. -/
def Obligations.ClearBlanksDisplay : Prop :=
  EncodedBy 0x00E0 0xFFFF (fun _ => .cls) ∧
    ∀ s : State, ∃ t, exec .cls s = .next t ∧ Advances .cls t ∧ (∀ x y, pixelAt t.disp x y = false) ∧ t.pc = s.pc + 2 ∧
      SameExcept [.disp, .pc] s t

/-- R151. The result is the draw under the mask, whatever byte is drawn (decision D21, log 7): the draw is one byte for
every mask, and the draw count goes on. -/
def Obligations.RandomIsMaskedDraw : Prop :=
  EncodedBy 0xC000 0xF000 (fun w => .rnd (xField w) (nnField w)) ∧
    ∀ s : State, ∃ r : Byte, ∀ (x : Reg) (nn : Byte), ∃ t, exec (.rnd x nn) s = .next t ∧
      t.readV x = r &&& nn ∧ t.readV x &&& ~~~nn = 0 ∧ RegsExcept [x] s t ∧ t.draws = s.draws + 1 ∧
      t.pc = s.pc + 2 ∧ SameExcept [.v, .draws, .pc] s t

/-- R152. The loop's effect in closed form: a pixel is flipped exactly when the sprite has a 1 bit on it, coordinates
wrapped, and VF tells whether a covered pixel was set. A range past 0xFFF under Fault raises before any pixel changes
(decisions D2, D6, D9; log 3, 5, 10). -/
def Obligations.DrawFlipsCoveredPixels : Prop :=
  EncodedBy 0xD000 0xF000 (fun w => .drw (xField w) (yField w) (nField w)) ∧
    (∀ (x y : Reg) (n : Nat) (s : State), n ≤ 15 → RangeOk s n →
      ∃ t, exec (.drw x y n) s = .next t ∧
        (∀ px py, spriteCovers s (s.readV x).toNat (s.readV y).toNat n px py →
          pixelAt t.disp px py = !pixelAt s.disp px py) ∧
        (∀ px py, ¬ spriteCovers s (s.readV x).toNat (s.readV y).toNat n px py →
          pixelAt t.disp px py = pixelAt s.disp px py) ∧
        (t.readV 0xF = 0 ∨ t.readV 0xF = 1) ∧
        (t.readV 0xF = 1 ↔ ∃ px py, spriteCovers s (s.readV x).toNat (s.readV y).toNat n px py ∧
          pixelAt s.disp px py = true) ∧
        RegsExcept [0xF] s t ∧ t.pc = s.pc + 2 ∧ SameExcept [.disp, .v, .pc] s t) ∧
    (∀ (x y : Reg) (n : Nat) (s : State), n ≤ 15 → ¬ RangeOk s n →
      ∃ t, exec (.drw x y n) s = .next t ∧
        t.fault = some (.addressOutOfRange .data (max s.i.toNat 0x1000)) ∧ SameExcept [.fault] s t)

/-- The XOR property: drawing the same sprite again at the same place restores the display; the second draw collides
exactly when the sprite covers a pixel that was 0 before the first, which on a blank display means that it has a 1 bit
in its rows; a draw onto a blank display never collides (R152, W6). -/
def Obligations.DrawTwiceRestoresDisplay : Prop :=
  ∀ (x y x' y' : Reg) (n : Nat) (s t u : State), n ≤ 15 → RangeOk s n → exec (.drw x y n) s = .next t →
    (t.readV x').toNat % 64 = (s.readV x).toNat % 64 → (t.readV y').toNat % 32 = (s.readV y).toNat % 32 →
    exec (.drw x' y' n) t = .next u →
    (∀ px py, pixelAt u.disp px py = pixelAt s.disp px py) ∧
      (u.readV 0xF = 1 ↔ ∃ px py, spriteCovers s (s.readV x).toNat (s.readV y).toNat n px py ∧
        pixelAt s.disp px py = false) ∧
      ((∀ px py, pixelAt s.disp px py = false) →
        t.readV 0xF = 0 ∧ (u.readV 0xF = 1 ↔ ∃ r, r < n ∧ s.byteAt (dataLoc s r) ≠ 0))

/-! ## Timers and input -/

/-- R162, R164, R165. -/
def Obligations.TimerReadsAndWrites : Prop :=
  EncodedBy 0xF007 0xF0FF (fun w => .ldVxDt (xField w)) ∧ EncodedBy 0xF015 0xF0FF (fun w => .ldDtVx (xField w)) ∧
    EncodedBy 0xF018 0xF0FF (fun w => .ldStVx (xField w)) ∧
    ∀ (x : Reg) (s : State),
      (∃ t, exec (.ldVxDt x) s = .next t ∧ Advances (.ldVxDt x) t ∧
        t.readV x = s.dt ∧ RegsExcept [x] s t ∧ t.pc = s.pc + 2 ∧
        SameExcept [.v, .pc] s t) ∧
      (∃ t, exec (.ldDtVx x) s = .next t ∧ Advances (.ldDtVx x) t ∧
        t.dt = s.readV x ∧ t.pc = s.pc + 2 ∧ SameExcept [.dt, .pc] s t) ∧
      (∃ t, exec (.ldStVx x) s = .next t ∧ Advances (.ldStVx x) t ∧
        t.st = s.readV x ∧ (soundActive t = true ↔ (s.readV x).toNat ≠ 0) ∧ t.pc = s.pc + 2 ∧
        SameExcept [.st, .pc] s t)

/-- R163. The three cases of the key wait: start waiting, stay blocked, deliver the latched key. That the first
execution always blocks is decision D7 (log 12); that a wait for another register counts as none is the model's (log 11), and no
cycle reaches it. -/
def Obligations.KeyWaitCases : Prop :=
  EncodedBy 0xF00A 0xF0FF (fun w => .ldVxK (xField w)) ∧
    ∀ (x : Reg) (s : State),
      (s.wait = .idle → ∃ t, exec (.ldVxK x) s = .next t ∧ t.wait = .awaiting x none ∧ SameExcept [.wait] s t) ∧
      (∀ y l, y ≠ x → s.wait = .awaiting y l →
        ∃ t, exec (.ldVxK x) s = .next t ∧ t.wait = .awaiting x none ∧ SameExcept [.wait] s t) ∧
      (s.wait = .awaiting x none → exec (.ldVxK x) s = .next s) ∧
      (∀ k : Fin 16, s.wait = .awaiting x (some k) → ∃ t, exec (.ldVxK x) s = .next t ∧
        (t.readV x).toNat = k.val ∧ RegsExcept [x] s t ∧ t.wait = .idle ∧ t.pc = s.pc + 2 ∧
        SameExcept [.v, .wait, .pc] s t)

/-- R163, R167. A whole wait: the first cycle blocks whatever keys are held; key releases leave it blocked;
the first edge is delivered by the next cycle, and later key events do not change which key that is (decision D7, log
12). -/
def Obligations.KeyWaitEndsAtFirstEdge : Prop :=
  ∀ (s : State) (w : Word) (x : Reg) (k : Fin 16) (quiet later : List (Fin 16 × Bool)),
    s.fault = none → s.wait = .idle → NextWord s w → decode w = .instr (.ldVxK x) →
    (∀ e ∈ quiet, e.2 = false) → (keyEvents quiet s).keyAt k = false →
    ∃ s1 s2 t, stepCycle s = .next (s1, .blocked) ∧
      stepCycle (keyEvents quiet s1) = .next (s2, .blocked) ∧ s2 = keyEvents quiet s1 ∧
      stepCycle (keyEvents later (setKeyState k true s2)) = .next (t, .advanced) ∧
      (t.readV x).toNat = k.val ∧ t.pc = s.pc + 2 ∧ t.wait = .idle

/-! ## Rules about all instructions -/

/-- R36, R20 to R33, 20_memory.md R50: no instruction changes a piece of state outside its list, in any state, whether
it completes or raises. Only Dxyn and 00E0 change the display, only Fx33 and Fx55 store, only 2nnn and 00EE move sp,
no instruction changes the keys or the parameters. -/
def Obligations.OnlyNamedWritersWrite : Prop :=
  ∀ (i : Instr) (s t : State), exec i s = .next t → SameExcept (mayWrite i) s t

/-- R21, R22: no instruction changes a general register outside its destinations, Vx, VF where it defines a flag, or
V0..Vx for Fx65. -/
def Obligations.OnlyDestinationRegistersChange : Prop :=
  ∀ (i : Instr) (s t : State), exec i s = .next t → RegsExcept (destRegs i) s t

/-- R24: the five states an instruction leaves pc in: NEXT, SKIP, a direct target of at most 0x10FE or a popped value,
or pc0 (blocked, or a fatal condition). -/
def Obligations.PcSuccessors : Prop :=
  ∀ (i : Instr) (s t : State), exec i s = .next t →
    t.pc = s.pc + 2 ∨ t.pc = s.pc + 4 ∨
      (((∃ nnn, i = .jp nnn ∨ i = .call nnn ∨ i = .jpV0 nnn) ∧ t.pc.toNat ≤ 0x10FE) ∨
        (i = .ret ∧ ∃ j, ∃ h : j < 16, t.pc = s.stack[j])) ∨
      (t.pc = s.pc ∧ ((∃ x, i = .ldVxK x) ∨ ∃ k, t.fault = some k))

/-- R29: no instruction reads ST. Two states that differ in ST alone give, for the same draw, the same outcome and next
states that differ in ST alone. It compares two runs: that Cxnn draws the same byte in both is the model's choice, one
draw for one draw count (log 7). -/
def Obligations.SoundTimerIsNeverRead : Prop :=
  ∀ (s t : State) (b : Byte) (o : CycleOutcome), stepCycle s = .next (t, o) →
    ∃ t', stepCycle (s.setSt b) = .next (t', o) ∧ SameExcept [.st] t t' ∧ t'.mem = t.mem ∧ t'.disp = t.disp

/-- R28, R39: the stack entries not in use, those at and above sp (decision D12, log 20), cannot be observed. Two states
that differ in them alone give, for the same draw, the same outcome and next states that differ in such entries alone.
It compares two runs: that Cxnn draws the same byte in both is the model's choice, one draw for one draw count
(log 7). -/
def Obligations.UnusedStackEntriesAreUnseen : Prop :=
  ∀ (s s' t : State) (o : CycleOutcome), s' = s.setStack s'.stack s.sp →
    (∀ j, (h : j < 16) → j < s.sp.val → s'.stack[j] = s.stack[j]) → stepCycle s = .next (t, o) →
    ∃ t', stepCycle s' = .next (t', o) ∧ t' = t.setStack t'.stack t.sp ∧
      ∀ j, (h : j < 16) → j < t.sp.val → t'.stack[j] = t.stack[j]

/-! ## Invariants -/

/-- The invariant holds after reset, from any state and for any parameters. -/
def Obligations.InvariantAtReset : Prop :=
  Inv State.reset ∧ (∀ s : State, Inv (resetCore s)) ∧ WaitAtInstr State.reset

/-- Every cycle keeps the invariant, from every state that has it: memory stays canonical and inside 0x000..0xFFF, pc at
most 0x10FE (R24), the stack entries in use return addresses (R100), the fault record truthful (R180). -/
def Obligations.StepKeepsInvariant : Prop :=
  ∀ s t : State, Inv s → step s = .next t → Inv t

/-- Every operation of the host keeps the invariant (R196). -/
def Obligations.HostOperationsKeepInvariant : Prop :=
  ∀ (op : HostOp) (s t : State) (r : Reply), Inv s → hostRun op s = .next (t, r) → Inv t

/-- A pending wait belongs to the Fx0A at pc (R32, R81): every cycle, tick and key event keeps it so, and so does every
other operation of the host that is answered, but load. After a load, as from every state, a cycle that leaves no fault
record leaves no wait of another instruction (decision D8, log 11); one that raises undoes the discard (decision D6, log
10). -/
def Obligations.WaitStaysAtItsInstruction : Prop :=
  (∀ s t : State, WaitAtInstr s → step s = .next t → WaitAtInstr t) ∧
    (∀ s : State, WaitAtInstr s → WaitAtInstr (tickTimers s)) ∧
    (∀ (k : Fin 16) (p : Bool) (s : State), WaitAtInstr s → WaitAtInstr (setKeyState k p s)) ∧
    (∀ (op : HostOp) (s t : State) (r : Reply), (∀ bytes, op ≠ .load bytes) → WaitAtInstr s →
      hostRun op s = .next (t, r) → WaitAtInstr t) ∧
    (∀ (bytes : List Byte) (s t u : State), load bytes s = .next t → step t = .next u → u.fault = none →
      WaitAtInstr u) ∧
    (∀ s t : State, step s = .next t → t.fault = none → WaitAtInstr t)

/-! ## Ends of a run -/

/-- R215. Every reset with no load after it: for every k up to 1792, k cycles end at 0x200 + 2k with nothing else changed,
each of them reporting UnknownOpcode(0x0000); the cycle after them faults on the fetch at 0x1000. -/
def Obligations.EmptyMemoryRunsToTheEnd : Prop :=
  ∀ s : State,
    (∀ k, k ≤ 1792 →
      Host.Core.run core k (resetCore s) = .next ((resetCore s).setPc (BitVec.ofNat 16 (0x200 + 2 * k)))) ∧
    (∀ k, k < 1792 → ∃ t, stepCycle ((resetCore s).setPc (BitVec.ofNat 16 (0x200 + 2 * k))) =
      .next (t, .unknownOpcode 0x0000)) ∧
    (∃ t, stepCycle ((resetCore s).setPc 0x1000) = .next (t, .fault (.addressOutOfRange .fetch 0x1000)))

/-- R198. The three ends are left unchanged by a cycle: the idle loop, a halted machine, and the unresolved wait, which
blocks unless the machine is halted as well (decision D29, log 33). -/
def Obligations.EndStatesAreStable : Prop :=
  (∀ s : State, IdleLoop s → stepCycle s = .next (s, .advanced)) ∧
    (∀ (s : State) (k : FatalKind), Faulted s k → stepCycle s = .next (s, .fault k)) ∧
    (∀ (s : State) (x : Reg), WaitingForKey s x →
      step s = .next s ∧ (s.fault = none → stepCycle s = .next (s, .blocked)))
end

