-- ==== Sys2Proof/Laws/Decode.lean ====
section
/-! SUPPORT. Masks as field conditions: a word meets a row's mask exactly when its op and selector fields have the
row's values (30_encoding.md R70, R74). -/

namespace Sys2Proof

theorem and_split (k a b c d : Nat) (hb : b < 2 ^ k) (hd : d < 2 ^ k) :
    (2 ^ k * a + b) &&& (2 ^ k * c + d) = 2 ^ k * (a &&& c) + (b &&& d) := by
  have hbd : b &&& d < 2 ^ k := lt_of_le_of_lt Nat.and_le_left hb
  refine Nat.eq_of_testBit_eq fun i => ?_
  simp only [Nat.testBit_and, Nat.testBit_two_pow_mul_add _ hb, Nat.testBit_two_pow_mul_add _ hd,
    Nat.testBit_two_pow_mul_add _ hbd]
  split <;> rfl

/-- The masks of the table keep op and the low j bits. -/
theorem toNat_and_mask (w : Word) (j : Nat) (hj : j ≤ 12) :
    (w &&& BitVec.ofNat 16 (0xF000 + (2 ^ j - 1))).toNat = w.toNat / 4096 * 4096 + w.toNat % 2 ^ j := by
  have h12 : 2 ^ j ≤ 2 ^ 12 := Nat.pow_le_pow_right (by omega) hj
  have hd : 2 ^ j ∣ 4096 := pow_dvd_pow 2 hj
  have hm : (BitVec.ofNat 16 (0xF000 + (2 ^ j - 1))).toNat = 2 ^ 12 * (2 ^ 4 - 1) + (2 ^ j - 1) := by
    rw [BitVec.toNat_ofNat]; omega
  have hw : w.toNat = 2 ^ 12 * (w.toNat / 4096) + w.toNat % 4096 := by omega
  rw [BitVec.toNat_and, hm, hw, and_split 12 _ _ _ _ (by omega) (by omega), Nat.and_two_pow_sub_one_eq_mod,
    Nat.and_two_pow_sub_one_eq_mod, ← hw, Nat.mod_mod_of_dvd _ hd]
  omega

theorem opField_lt (w : Word) : opField w < 16 := by
  unfold opField; omega

/-- Mask 0xF000: op alone. -/
theorem mask_op (w : Word) (op : Nat) (hop : op < 16) :
    w &&& 0xF000 = BitVec.ofNat 16 (op * 4096) ↔ opField w = op := by
  have := toNat_and_mask w 0 (by omega)
  rw [← BitVec.toNat_inj, show (0xF000 : Word) = BitVec.ofNat 16 (0xF000 + (2 ^ 0 - 1)) from rfl, this,
    BitVec.toNat_ofNat]
  unfold opField; omega

/-- Mask 0xF00F: op and n. -/
theorem mask_op_n (w : Word) (op n : Nat) (hop : op < 16) (hn : n < 16) :
    w &&& 0xF00F = BitVec.ofNat 16 (op * 4096 + n) ↔ opField w = op ∧ nField w = n := by
  have := toNat_and_mask w 4 (by omega)
  rw [← BitVec.toNat_inj, show (0xF00F : Word) = BitVec.ofNat 16 (0xF000 + (2 ^ 4 - 1)) from rfl, this,
    BitVec.toNat_ofNat]
  unfold opField nField; omega

/-- Mask 0xF0FF: op and the selector byte. -/
theorem mask_op_sel (w : Word) (op sel : Nat) (hop : op < 16) (hsel : sel < 256) :
    w &&& 0xF0FF = BitVec.ofNat 16 (op * 4096 + sel) ↔ opField w = op ∧ selField w = sel := by
  have := toNat_and_mask w 8 (by omega)
  rw [← BitVec.toNat_inj, show (0xF0FF : Word) = BitVec.ofNat 16 (0xF000 + (2 ^ 8 - 1)) from rfl, this,
    BitVec.toNat_ofNat]
  unfold opField selField; omega

/-- Mask 0xFFFF: the whole word. -/
theorem mask_all (w : Word) : w &&& 0xFFFF = w := BitVec.and_allOnes

/-! ## The fields of an encoded word -/

theorem nnnWord_toNat (op : Nat) (nnn : Addr12) (hop : op < 16) :
    (nnnWord op nnn).toNat = op * 4096 + nnn.toNat := by
  have := nnn.isLt
  rw [nnnWord, BitVec.toNat_ofNat]; omega

theorem xnnWord_toNat (op : Nat) (x : Reg) (nn : Byte) (hop : op < 16) :
    (xnnWord op x nn).toNat = op * 4096 + x.val * 256 + nn.toNat := by
  have := nn.isLt; have := x.isLt
  rw [xnnWord, BitVec.toNat_ofNat]; omega

theorem xynWord_toNat (op : Nat) (x y : Reg) (n : Nat) (hop : op < 16) (hn : n < 16) :
    (xynWord op x y n).toNat = op * 4096 + x.val * 256 + y.val * 16 + n := by
  have := x.isLt; have := y.isLt
  rw [xynWord, BitVec.toNat_ofNat]; omega

theorem xSelWord_toNat (op : Nat) (x : Reg) (sel : Nat) (hop : op < 16) (hsel : sel < 256) :
    (xSelWord op x sel).toNat = op * 4096 + x.val * 256 + sel := by
  have := x.isLt
  rw [xSelWord, BitVec.toNat_ofNat]; omega

/-- Splitting a word into its two bytes and joining them gives the word back (20_memory.md R55). -/
theorem wordOfBytes_hiByte_loByte (w : Word) : wordOfBytes (hiByte w) (loByte w) = w := by
  have := w.isLt
  rw [← BitVec.toNat_inj, wordOfBytes, hiByte, loByte]
  simp only [BitVec.toNat_ofNat]
  omega

end Sys2Proof
end

