-- ==== Sys2Proof/Laws/State.lean ====
section
/-! SUPPORT. One lemma per field per update of State, each true by rfl, so that no later proof unfolds a record
update; and the same for the accessors readV, keyAt, base and byteAt. -/

namespace Sys2Proof.Machine

variable (s : State)


/-! ## setV -/

@[simp] theorem State.setV_cfg (x : Reg) (b : Byte) : (s.setV x b).cfg = s.cfg := rfl
@[simp] theorem State.setV_mem (x : Reg) (b : Byte) : (s.setV x b).mem = s.mem := rfl
@[simp] theorem State.setV_v (x : Reg) (b : Byte) : (s.setV x b).v = s.v.set x.val b := rfl
@[simp] theorem State.setV_i (x : Reg) (b : Byte) : (s.setV x b).i = s.i := rfl
@[simp] theorem State.setV_pc (x : Reg) (b : Byte) : (s.setV x b).pc = s.pc := rfl
@[simp] theorem State.setV_stack (x : Reg) (b : Byte) : (s.setV x b).stack = s.stack := rfl
@[simp] theorem State.setV_sp (x : Reg) (b : Byte) : (s.setV x b).sp = s.sp := rfl
@[simp] theorem State.setV_dt (x : Reg) (b : Byte) : (s.setV x b).dt = s.dt := rfl
@[simp] theorem State.setV_st (x : Reg) (b : Byte) : (s.setV x b).st = s.st := rfl
@[simp] theorem State.setV_disp (x : Reg) (b : Byte) : (s.setV x b).disp = s.disp := rfl
@[simp] theorem State.setV_key (x : Reg) (b : Byte) : (s.setV x b).key = s.key := rfl
@[simp] theorem State.setV_wait (x : Reg) (b : Byte) : (s.setV x b).wait = s.wait := rfl
@[simp] theorem State.setV_fault (x : Reg) (b : Byte) : (s.setV x b).fault = s.fault := rfl
@[simp] theorem State.setV_draws (x : Reg) (b : Byte) : (s.setV x b).draws = s.draws := rfl
@[simp] theorem State.setV_keyAt (x : Reg) (b : Byte) (k' : Fin 16) : (s.setV x b).keyAt k' = s.keyAt k' := rfl
@[simp] theorem State.setV_base (x : Reg) (b : Byte) : (s.setV x b).base = s.base := rfl
@[simp] theorem State.setV_byteAt (x : Reg) (b : Byte) (a' : Nat) : (s.setV x b).byteAt a' = s.byteAt a' := rfl

/-! ## setRegs -/

@[simp] theorem State.setRegs_cfg (v : Vector Byte 16) : (s.setRegs v).cfg = s.cfg := rfl
@[simp] theorem State.setRegs_mem (v : Vector Byte 16) : (s.setRegs v).mem = s.mem := rfl
@[simp] theorem State.setRegs_v (v : Vector Byte 16) : (s.setRegs v).v = v := rfl
@[simp] theorem State.setRegs_i (v : Vector Byte 16) : (s.setRegs v).i = s.i := rfl
@[simp] theorem State.setRegs_pc (v : Vector Byte 16) : (s.setRegs v).pc = s.pc := rfl
@[simp] theorem State.setRegs_stack (v : Vector Byte 16) : (s.setRegs v).stack = s.stack := rfl
@[simp] theorem State.setRegs_sp (v : Vector Byte 16) : (s.setRegs v).sp = s.sp := rfl
@[simp] theorem State.setRegs_dt (v : Vector Byte 16) : (s.setRegs v).dt = s.dt := rfl
@[simp] theorem State.setRegs_st (v : Vector Byte 16) : (s.setRegs v).st = s.st := rfl
@[simp] theorem State.setRegs_disp (v : Vector Byte 16) : (s.setRegs v).disp = s.disp := rfl
@[simp] theorem State.setRegs_key (v : Vector Byte 16) : (s.setRegs v).key = s.key := rfl
@[simp] theorem State.setRegs_wait (v : Vector Byte 16) : (s.setRegs v).wait = s.wait := rfl
@[simp] theorem State.setRegs_fault (v : Vector Byte 16) : (s.setRegs v).fault = s.fault := rfl
@[simp] theorem State.setRegs_draws (v : Vector Byte 16) : (s.setRegs v).draws = s.draws := rfl
@[simp] theorem State.setRegs_keyAt (v : Vector Byte 16) (k' : Fin 16) : (s.setRegs v).keyAt k' = s.keyAt k' := rfl
@[simp] theorem State.setRegs_base (v : Vector Byte 16) : (s.setRegs v).base = s.base := rfl
@[simp] theorem State.setRegs_byteAt (v : Vector Byte 16) (a' : Nat) : (s.setRegs v).byteAt a' = s.byteAt a' := rfl

/-! ## setI -/

@[simp] theorem State.setI_cfg (w : Word) : (s.setI w).cfg = s.cfg := rfl
@[simp] theorem State.setI_mem (w : Word) : (s.setI w).mem = s.mem := rfl
@[simp] theorem State.setI_v (w : Word) : (s.setI w).v = s.v := rfl
@[simp] theorem State.setI_i (w : Word) : (s.setI w).i = w := rfl
@[simp] theorem State.setI_pc (w : Word) : (s.setI w).pc = s.pc := rfl
@[simp] theorem State.setI_stack (w : Word) : (s.setI w).stack = s.stack := rfl
@[simp] theorem State.setI_sp (w : Word) : (s.setI w).sp = s.sp := rfl
@[simp] theorem State.setI_dt (w : Word) : (s.setI w).dt = s.dt := rfl
@[simp] theorem State.setI_st (w : Word) : (s.setI w).st = s.st := rfl
@[simp] theorem State.setI_disp (w : Word) : (s.setI w).disp = s.disp := rfl
@[simp] theorem State.setI_key (w : Word) : (s.setI w).key = s.key := rfl
@[simp] theorem State.setI_wait (w : Word) : (s.setI w).wait = s.wait := rfl
@[simp] theorem State.setI_fault (w : Word) : (s.setI w).fault = s.fault := rfl
@[simp] theorem State.setI_draws (w : Word) : (s.setI w).draws = s.draws := rfl
@[simp] theorem State.setI_readV (w : Word) (r : Reg) : (s.setI w).readV r = s.readV r := rfl
@[simp] theorem State.setI_keyAt (w : Word) (k' : Fin 16) : (s.setI w).keyAt k' = s.keyAt k' := rfl
@[simp] theorem State.setI_byteAt (w : Word) (a' : Nat) : (s.setI w).byteAt a' = s.byteAt a' := rfl

/-! ## setPc -/

@[simp] theorem State.setPc_cfg (w : Word) : (s.setPc w).cfg = s.cfg := rfl
@[simp] theorem State.setPc_mem (w : Word) : (s.setPc w).mem = s.mem := rfl
@[simp] theorem State.setPc_v (w : Word) : (s.setPc w).v = s.v := rfl
@[simp] theorem State.setPc_i (w : Word) : (s.setPc w).i = s.i := rfl
@[simp] theorem State.setPc_pc (w : Word) : (s.setPc w).pc = w := rfl
@[simp] theorem State.setPc_stack (w : Word) : (s.setPc w).stack = s.stack := rfl
@[simp] theorem State.setPc_sp (w : Word) : (s.setPc w).sp = s.sp := rfl
@[simp] theorem State.setPc_dt (w : Word) : (s.setPc w).dt = s.dt := rfl
@[simp] theorem State.setPc_st (w : Word) : (s.setPc w).st = s.st := rfl
@[simp] theorem State.setPc_disp (w : Word) : (s.setPc w).disp = s.disp := rfl
@[simp] theorem State.setPc_key (w : Word) : (s.setPc w).key = s.key := rfl
@[simp] theorem State.setPc_wait (w : Word) : (s.setPc w).wait = s.wait := rfl
@[simp] theorem State.setPc_fault (w : Word) : (s.setPc w).fault = s.fault := rfl
@[simp] theorem State.setPc_draws (w : Word) : (s.setPc w).draws = s.draws := rfl
@[simp] theorem State.setPc_readV (w : Word) (r : Reg) : (s.setPc w).readV r = s.readV r := rfl
@[simp] theorem State.setPc_keyAt (w : Word) (k' : Fin 16) : (s.setPc w).keyAt k' = s.keyAt k' := rfl
@[simp] theorem State.setPc_base (w : Word) : (s.setPc w).base = s.base := rfl
@[simp] theorem State.setPc_byteAt (w : Word) (a' : Nat) : (s.setPc w).byteAt a' = s.byteAt a' := rfl

/-! ## setMem -/

@[simp] theorem State.setMem_cfg (m : Memory) : (s.setMem m).cfg = s.cfg := rfl
@[simp] theorem State.setMem_mem (m : Memory) : (s.setMem m).mem = m := rfl
@[simp] theorem State.setMem_v (m : Memory) : (s.setMem m).v = s.v := rfl
@[simp] theorem State.setMem_i (m : Memory) : (s.setMem m).i = s.i := rfl
@[simp] theorem State.setMem_pc (m : Memory) : (s.setMem m).pc = s.pc := rfl
@[simp] theorem State.setMem_stack (m : Memory) : (s.setMem m).stack = s.stack := rfl
@[simp] theorem State.setMem_sp (m : Memory) : (s.setMem m).sp = s.sp := rfl
@[simp] theorem State.setMem_dt (m : Memory) : (s.setMem m).dt = s.dt := rfl
@[simp] theorem State.setMem_st (m : Memory) : (s.setMem m).st = s.st := rfl
@[simp] theorem State.setMem_disp (m : Memory) : (s.setMem m).disp = s.disp := rfl
@[simp] theorem State.setMem_key (m : Memory) : (s.setMem m).key = s.key := rfl
@[simp] theorem State.setMem_wait (m : Memory) : (s.setMem m).wait = s.wait := rfl
@[simp] theorem State.setMem_fault (m : Memory) : (s.setMem m).fault = s.fault := rfl
@[simp] theorem State.setMem_draws (m : Memory) : (s.setMem m).draws = s.draws := rfl
@[simp] theorem State.setMem_readV (m : Memory) (r : Reg) : (s.setMem m).readV r = s.readV r := rfl
@[simp] theorem State.setMem_keyAt (m : Memory) (k' : Fin 16) : (s.setMem m).keyAt k' = s.keyAt k' := rfl
@[simp] theorem State.setMem_base (m : Memory) : (s.setMem m).base = s.base := rfl

/-! ## setStack -/

@[simp] theorem State.setStack_cfg (k : Vector Word 16) (p : Fin 17) : (s.setStack k p).cfg = s.cfg := rfl
@[simp] theorem State.setStack_mem (k : Vector Word 16) (p : Fin 17) : (s.setStack k p).mem = s.mem := rfl
@[simp] theorem State.setStack_v (k : Vector Word 16) (p : Fin 17) : (s.setStack k p).v = s.v := rfl
@[simp] theorem State.setStack_i (k : Vector Word 16) (p : Fin 17) : (s.setStack k p).i = s.i := rfl
@[simp] theorem State.setStack_pc (k : Vector Word 16) (p : Fin 17) : (s.setStack k p).pc = s.pc := rfl
@[simp] theorem State.setStack_stack (k : Vector Word 16) (p : Fin 17) : (s.setStack k p).stack = k := rfl
@[simp] theorem State.setStack_sp (k : Vector Word 16) (p : Fin 17) : (s.setStack k p).sp = p := rfl
@[simp] theorem State.setStack_dt (k : Vector Word 16) (p : Fin 17) : (s.setStack k p).dt = s.dt := rfl
@[simp] theorem State.setStack_st (k : Vector Word 16) (p : Fin 17) : (s.setStack k p).st = s.st := rfl
@[simp] theorem State.setStack_disp (k : Vector Word 16) (p : Fin 17) : (s.setStack k p).disp = s.disp := rfl
@[simp] theorem State.setStack_key (k : Vector Word 16) (p : Fin 17) : (s.setStack k p).key = s.key := rfl
@[simp] theorem State.setStack_wait (k : Vector Word 16) (p : Fin 17) : (s.setStack k p).wait = s.wait := rfl
@[simp] theorem State.setStack_fault (k : Vector Word 16) (p : Fin 17) : (s.setStack k p).fault = s.fault := rfl
@[simp] theorem State.setStack_draws (k : Vector Word 16) (p : Fin 17) : (s.setStack k p).draws = s.draws := rfl
@[simp] theorem State.setStack_readV (k : Vector Word 16) (p : Fin 17) (r : Reg) : (s.setStack k p).readV r = s.readV r := rfl
@[simp] theorem State.setStack_keyAt (k : Vector Word 16) (p : Fin 17) (k' : Fin 16) : (s.setStack k p).keyAt k' = s.keyAt k' := rfl
@[simp] theorem State.setStack_base (k : Vector Word 16) (p : Fin 17) : (s.setStack k p).base = s.base := rfl
@[simp] theorem State.setStack_byteAt (k : Vector Word 16) (p : Fin 17) (a' : Nat) : (s.setStack k p).byteAt a' = s.byteAt a' := rfl

/-! ## setDt -/

@[simp] theorem State.setDt_cfg (b : Byte) : (s.setDt b).cfg = s.cfg := rfl
@[simp] theorem State.setDt_mem (b : Byte) : (s.setDt b).mem = s.mem := rfl
@[simp] theorem State.setDt_v (b : Byte) : (s.setDt b).v = s.v := rfl
@[simp] theorem State.setDt_i (b : Byte) : (s.setDt b).i = s.i := rfl
@[simp] theorem State.setDt_pc (b : Byte) : (s.setDt b).pc = s.pc := rfl
@[simp] theorem State.setDt_stack (b : Byte) : (s.setDt b).stack = s.stack := rfl
@[simp] theorem State.setDt_sp (b : Byte) : (s.setDt b).sp = s.sp := rfl
@[simp] theorem State.setDt_dt (b : Byte) : (s.setDt b).dt = b := rfl
@[simp] theorem State.setDt_st (b : Byte) : (s.setDt b).st = s.st := rfl
@[simp] theorem State.setDt_disp (b : Byte) : (s.setDt b).disp = s.disp := rfl
@[simp] theorem State.setDt_key (b : Byte) : (s.setDt b).key = s.key := rfl
@[simp] theorem State.setDt_wait (b : Byte) : (s.setDt b).wait = s.wait := rfl
@[simp] theorem State.setDt_fault (b : Byte) : (s.setDt b).fault = s.fault := rfl
@[simp] theorem State.setDt_draws (b : Byte) : (s.setDt b).draws = s.draws := rfl
@[simp] theorem State.setDt_readV (b : Byte) (r : Reg) : (s.setDt b).readV r = s.readV r := rfl
@[simp] theorem State.setDt_keyAt (b : Byte) (k' : Fin 16) : (s.setDt b).keyAt k' = s.keyAt k' := rfl
@[simp] theorem State.setDt_base (b : Byte) : (s.setDt b).base = s.base := rfl
@[simp] theorem State.setDt_byteAt (b : Byte) (a' : Nat) : (s.setDt b).byteAt a' = s.byteAt a' := rfl

/-! ## setSt -/

@[simp] theorem State.setSt_cfg (b : Byte) : (s.setSt b).cfg = s.cfg := rfl
@[simp] theorem State.setSt_mem (b : Byte) : (s.setSt b).mem = s.mem := rfl
@[simp] theorem State.setSt_v (b : Byte) : (s.setSt b).v = s.v := rfl
@[simp] theorem State.setSt_i (b : Byte) : (s.setSt b).i = s.i := rfl
@[simp] theorem State.setSt_pc (b : Byte) : (s.setSt b).pc = s.pc := rfl
@[simp] theorem State.setSt_stack (b : Byte) : (s.setSt b).stack = s.stack := rfl
@[simp] theorem State.setSt_sp (b : Byte) : (s.setSt b).sp = s.sp := rfl
@[simp] theorem State.setSt_dt (b : Byte) : (s.setSt b).dt = s.dt := rfl
@[simp] theorem State.setSt_st (b : Byte) : (s.setSt b).st = b := rfl
@[simp] theorem State.setSt_disp (b : Byte) : (s.setSt b).disp = s.disp := rfl
@[simp] theorem State.setSt_key (b : Byte) : (s.setSt b).key = s.key := rfl
@[simp] theorem State.setSt_wait (b : Byte) : (s.setSt b).wait = s.wait := rfl
@[simp] theorem State.setSt_fault (b : Byte) : (s.setSt b).fault = s.fault := rfl
@[simp] theorem State.setSt_draws (b : Byte) : (s.setSt b).draws = s.draws := rfl
@[simp] theorem State.setSt_readV (b : Byte) (r : Reg) : (s.setSt b).readV r = s.readV r := rfl
@[simp] theorem State.setSt_keyAt (b : Byte) (k' : Fin 16) : (s.setSt b).keyAt k' = s.keyAt k' := rfl
@[simp] theorem State.setSt_base (b : Byte) : (s.setSt b).base = s.base := rfl
@[simp] theorem State.setSt_byteAt (b : Byte) (a' : Nat) : (s.setSt b).byteAt a' = s.byteAt a' := rfl

/-! ## setDisp -/

@[simp] theorem State.setDisp_cfg (d : Display) : (s.setDisp d).cfg = s.cfg := rfl
@[simp] theorem State.setDisp_mem (d : Display) : (s.setDisp d).mem = s.mem := rfl
@[simp] theorem State.setDisp_v (d : Display) : (s.setDisp d).v = s.v := rfl
@[simp] theorem State.setDisp_i (d : Display) : (s.setDisp d).i = s.i := rfl
@[simp] theorem State.setDisp_pc (d : Display) : (s.setDisp d).pc = s.pc := rfl
@[simp] theorem State.setDisp_stack (d : Display) : (s.setDisp d).stack = s.stack := rfl
@[simp] theorem State.setDisp_sp (d : Display) : (s.setDisp d).sp = s.sp := rfl
@[simp] theorem State.setDisp_dt (d : Display) : (s.setDisp d).dt = s.dt := rfl
@[simp] theorem State.setDisp_st (d : Display) : (s.setDisp d).st = s.st := rfl
@[simp] theorem State.setDisp_disp (d : Display) : (s.setDisp d).disp = d := rfl
@[simp] theorem State.setDisp_key (d : Display) : (s.setDisp d).key = s.key := rfl
@[simp] theorem State.setDisp_wait (d : Display) : (s.setDisp d).wait = s.wait := rfl
@[simp] theorem State.setDisp_fault (d : Display) : (s.setDisp d).fault = s.fault := rfl
@[simp] theorem State.setDisp_draws (d : Display) : (s.setDisp d).draws = s.draws := rfl
@[simp] theorem State.setDisp_readV (d : Display) (r : Reg) : (s.setDisp d).readV r = s.readV r := rfl
@[simp] theorem State.setDisp_keyAt (d : Display) (k' : Fin 16) : (s.setDisp d).keyAt k' = s.keyAt k' := rfl
@[simp] theorem State.setDisp_base (d : Display) : (s.setDisp d).base = s.base := rfl
@[simp] theorem State.setDisp_byteAt (d : Display) (a' : Nat) : (s.setDisp d).byteAt a' = s.byteAt a' := rfl

/-! ## setKey -/

@[simp] theorem State.setKey_cfg (k : Vector Bool 16) : (s.setKey k).cfg = s.cfg := rfl
@[simp] theorem State.setKey_mem (k : Vector Bool 16) : (s.setKey k).mem = s.mem := rfl
@[simp] theorem State.setKey_v (k : Vector Bool 16) : (s.setKey k).v = s.v := rfl
@[simp] theorem State.setKey_i (k : Vector Bool 16) : (s.setKey k).i = s.i := rfl
@[simp] theorem State.setKey_pc (k : Vector Bool 16) : (s.setKey k).pc = s.pc := rfl
@[simp] theorem State.setKey_stack (k : Vector Bool 16) : (s.setKey k).stack = s.stack := rfl
@[simp] theorem State.setKey_sp (k : Vector Bool 16) : (s.setKey k).sp = s.sp := rfl
@[simp] theorem State.setKey_dt (k : Vector Bool 16) : (s.setKey k).dt = s.dt := rfl
@[simp] theorem State.setKey_st (k : Vector Bool 16) : (s.setKey k).st = s.st := rfl
@[simp] theorem State.setKey_disp (k : Vector Bool 16) : (s.setKey k).disp = s.disp := rfl
@[simp] theorem State.setKey_key (k : Vector Bool 16) : (s.setKey k).key = k := rfl
@[simp] theorem State.setKey_wait (k : Vector Bool 16) : (s.setKey k).wait = s.wait := rfl
@[simp] theorem State.setKey_fault (k : Vector Bool 16) : (s.setKey k).fault = s.fault := rfl
@[simp] theorem State.setKey_draws (k : Vector Bool 16) : (s.setKey k).draws = s.draws := rfl
@[simp] theorem State.setKey_readV (k : Vector Bool 16) (r : Reg) : (s.setKey k).readV r = s.readV r := rfl
@[simp] theorem State.setKey_base (k : Vector Bool 16) : (s.setKey k).base = s.base := rfl
@[simp] theorem State.setKey_byteAt (k : Vector Bool 16) (a' : Nat) : (s.setKey k).byteAt a' = s.byteAt a' := rfl

/-! ## setWait -/

@[simp] theorem State.setWait_cfg (w : Wait) : (s.setWait w).cfg = s.cfg := rfl
@[simp] theorem State.setWait_mem (w : Wait) : (s.setWait w).mem = s.mem := rfl
@[simp] theorem State.setWait_v (w : Wait) : (s.setWait w).v = s.v := rfl
@[simp] theorem State.setWait_i (w : Wait) : (s.setWait w).i = s.i := rfl
@[simp] theorem State.setWait_pc (w : Wait) : (s.setWait w).pc = s.pc := rfl
@[simp] theorem State.setWait_stack (w : Wait) : (s.setWait w).stack = s.stack := rfl
@[simp] theorem State.setWait_sp (w : Wait) : (s.setWait w).sp = s.sp := rfl
@[simp] theorem State.setWait_dt (w : Wait) : (s.setWait w).dt = s.dt := rfl
@[simp] theorem State.setWait_st (w : Wait) : (s.setWait w).st = s.st := rfl
@[simp] theorem State.setWait_disp (w : Wait) : (s.setWait w).disp = s.disp := rfl
@[simp] theorem State.setWait_key (w : Wait) : (s.setWait w).key = s.key := rfl
@[simp] theorem State.setWait_wait (w : Wait) : (s.setWait w).wait = w := rfl
@[simp] theorem State.setWait_fault (w : Wait) : (s.setWait w).fault = s.fault := rfl
@[simp] theorem State.setWait_draws (w : Wait) : (s.setWait w).draws = s.draws := rfl
@[simp] theorem State.setWait_readV (w : Wait) (r : Reg) : (s.setWait w).readV r = s.readV r := rfl
@[simp] theorem State.setWait_keyAt (w : Wait) (k' : Fin 16) : (s.setWait w).keyAt k' = s.keyAt k' := rfl
@[simp] theorem State.setWait_base (w : Wait) : (s.setWait w).base = s.base := rfl
@[simp] theorem State.setWait_byteAt (w : Wait) (a' : Nat) : (s.setWait w).byteAt a' = s.byteAt a' := rfl

/-! ## setFault -/

@[simp] theorem State.setFault_cfg (f : Option FatalKind) : (s.setFault f).cfg = s.cfg := rfl
@[simp] theorem State.setFault_mem (f : Option FatalKind) : (s.setFault f).mem = s.mem := rfl
@[simp] theorem State.setFault_v (f : Option FatalKind) : (s.setFault f).v = s.v := rfl
@[simp] theorem State.setFault_i (f : Option FatalKind) : (s.setFault f).i = s.i := rfl
@[simp] theorem State.setFault_pc (f : Option FatalKind) : (s.setFault f).pc = s.pc := rfl
@[simp] theorem State.setFault_stack (f : Option FatalKind) : (s.setFault f).stack = s.stack := rfl
@[simp] theorem State.setFault_sp (f : Option FatalKind) : (s.setFault f).sp = s.sp := rfl
@[simp] theorem State.setFault_dt (f : Option FatalKind) : (s.setFault f).dt = s.dt := rfl
@[simp] theorem State.setFault_st (f : Option FatalKind) : (s.setFault f).st = s.st := rfl
@[simp] theorem State.setFault_disp (f : Option FatalKind) : (s.setFault f).disp = s.disp := rfl
@[simp] theorem State.setFault_key (f : Option FatalKind) : (s.setFault f).key = s.key := rfl
@[simp] theorem State.setFault_wait (f : Option FatalKind) : (s.setFault f).wait = s.wait := rfl
@[simp] theorem State.setFault_fault (f : Option FatalKind) : (s.setFault f).fault = f := rfl
@[simp] theorem State.setFault_draws (f : Option FatalKind) : (s.setFault f).draws = s.draws := rfl
@[simp] theorem State.setFault_readV (f : Option FatalKind) (r : Reg) : (s.setFault f).readV r = s.readV r := rfl
@[simp] theorem State.setFault_keyAt (f : Option FatalKind) (k' : Fin 16) : (s.setFault f).keyAt k' = s.keyAt k' := rfl
@[simp] theorem State.setFault_base (f : Option FatalKind) : (s.setFault f).base = s.base := rfl
@[simp] theorem State.setFault_byteAt (f : Option FatalKind) (a' : Nat) : (s.setFault f).byteAt a' = s.byteAt a' := rfl

/-! ## countDraw -/

@[simp] theorem State.countDraw_cfg : s.countDraw.cfg = s.cfg := rfl
@[simp] theorem State.countDraw_mem : s.countDraw.mem = s.mem := rfl
@[simp] theorem State.countDraw_v : s.countDraw.v = s.v := rfl
@[simp] theorem State.countDraw_i : s.countDraw.i = s.i := rfl
@[simp] theorem State.countDraw_pc : s.countDraw.pc = s.pc := rfl
@[simp] theorem State.countDraw_stack : s.countDraw.stack = s.stack := rfl
@[simp] theorem State.countDraw_sp : s.countDraw.sp = s.sp := rfl
@[simp] theorem State.countDraw_dt : s.countDraw.dt = s.dt := rfl
@[simp] theorem State.countDraw_st : s.countDraw.st = s.st := rfl
@[simp] theorem State.countDraw_disp : s.countDraw.disp = s.disp := rfl
@[simp] theorem State.countDraw_key : s.countDraw.key = s.key := rfl
@[simp] theorem State.countDraw_wait : s.countDraw.wait = s.wait := rfl
@[simp] theorem State.countDraw_fault : s.countDraw.fault = s.fault := rfl
@[simp] theorem State.countDraw_draws : s.countDraw.draws = s.draws + 1 := rfl
@[simp] theorem State.countDraw_readV (r : Reg) : (s.countDraw).readV r = s.readV r := rfl
@[simp] theorem State.countDraw_keyAt (k' : Fin 16) : (s.countDraw).keyAt k' = s.keyAt k' := rfl
@[simp] theorem State.countDraw_base : (s.countDraw).base = s.base := rfl
@[simp] theorem State.countDraw_byteAt (a' : Nat) : (s.countDraw).byteAt a' = s.byteAt a' := rfl

/-! ## toNext -/

@[simp] theorem State.toNext_cfg : s.toNext.cfg = s.cfg := rfl
@[simp] theorem State.toNext_mem : s.toNext.mem = s.mem := rfl
@[simp] theorem State.toNext_v : s.toNext.v = s.v := rfl
@[simp] theorem State.toNext_i : s.toNext.i = s.i := rfl
@[simp] theorem State.toNext_pc : s.toNext.pc = s.pc + 2 := rfl
@[simp] theorem State.toNext_stack : s.toNext.stack = s.stack := rfl
@[simp] theorem State.toNext_sp : s.toNext.sp = s.sp := rfl
@[simp] theorem State.toNext_dt : s.toNext.dt = s.dt := rfl
@[simp] theorem State.toNext_st : s.toNext.st = s.st := rfl
@[simp] theorem State.toNext_disp : s.toNext.disp = s.disp := rfl
@[simp] theorem State.toNext_key : s.toNext.key = s.key := rfl
@[simp] theorem State.toNext_wait : s.toNext.wait = s.wait := rfl
@[simp] theorem State.toNext_fault : s.toNext.fault = s.fault := rfl
@[simp] theorem State.toNext_draws : s.toNext.draws = s.draws := rfl
@[simp] theorem State.toNext_readV (r : Reg) : (s.toNext).readV r = s.readV r := rfl
@[simp] theorem State.toNext_keyAt (k' : Fin 16) : (s.toNext).keyAt k' = s.keyAt k' := rfl
@[simp] theorem State.toNext_base : (s.toNext).base = s.base := rfl
@[simp] theorem State.toNext_byteAt (a' : Nat) : (s.toNext).byteAt a' = s.byteAt a' := rfl

/-! ## toSkip -/

@[simp] theorem State.toSkip_cfg : s.toSkip.cfg = s.cfg := rfl
@[simp] theorem State.toSkip_mem : s.toSkip.mem = s.mem := rfl
@[simp] theorem State.toSkip_v : s.toSkip.v = s.v := rfl
@[simp] theorem State.toSkip_i : s.toSkip.i = s.i := rfl
@[simp] theorem State.toSkip_pc : s.toSkip.pc = s.pc + 4 := rfl
@[simp] theorem State.toSkip_stack : s.toSkip.stack = s.stack := rfl
@[simp] theorem State.toSkip_sp : s.toSkip.sp = s.sp := rfl
@[simp] theorem State.toSkip_dt : s.toSkip.dt = s.dt := rfl
@[simp] theorem State.toSkip_st : s.toSkip.st = s.st := rfl
@[simp] theorem State.toSkip_disp : s.toSkip.disp = s.disp := rfl
@[simp] theorem State.toSkip_key : s.toSkip.key = s.key := rfl
@[simp] theorem State.toSkip_wait : s.toSkip.wait = s.wait := rfl
@[simp] theorem State.toSkip_fault : s.toSkip.fault = s.fault := rfl
@[simp] theorem State.toSkip_draws : s.toSkip.draws = s.draws := rfl
@[simp] theorem State.toSkip_readV (r : Reg) : (s.toSkip).readV r = s.readV r := rfl
@[simp] theorem State.toSkip_keyAt (k' : Fin 16) : (s.toSkip).keyAt k' = s.keyAt k' := rfl
@[simp] theorem State.toSkip_base : (s.toSkip).base = s.base := rfl
@[simp] theorem State.toSkip_byteAt (a' : Nat) : (s.toSkip).byteAt a' = s.byteAt a' := rfl

/-! ## withByte -/

@[simp] theorem State.withByte_cfg (a : Nat) (b : Byte) : (s.withByte a b).cfg = s.cfg := rfl
@[simp] theorem State.withByte_mem (a : Nat) (b : Byte) : (s.withByte a b).mem = writeMem s.cfg s.mem a b := rfl
@[simp] theorem State.withByte_v (a : Nat) (b : Byte) : (s.withByte a b).v = s.v := rfl
@[simp] theorem State.withByte_i (a : Nat) (b : Byte) : (s.withByte a b).i = s.i := rfl
@[simp] theorem State.withByte_pc (a : Nat) (b : Byte) : (s.withByte a b).pc = s.pc := rfl
@[simp] theorem State.withByte_stack (a : Nat) (b : Byte) : (s.withByte a b).stack = s.stack := rfl
@[simp] theorem State.withByte_sp (a : Nat) (b : Byte) : (s.withByte a b).sp = s.sp := rfl
@[simp] theorem State.withByte_dt (a : Nat) (b : Byte) : (s.withByte a b).dt = s.dt := rfl
@[simp] theorem State.withByte_st (a : Nat) (b : Byte) : (s.withByte a b).st = s.st := rfl
@[simp] theorem State.withByte_disp (a : Nat) (b : Byte) : (s.withByte a b).disp = s.disp := rfl
@[simp] theorem State.withByte_key (a : Nat) (b : Byte) : (s.withByte a b).key = s.key := rfl
@[simp] theorem State.withByte_wait (a : Nat) (b : Byte) : (s.withByte a b).wait = s.wait := rfl
@[simp] theorem State.withByte_fault (a : Nat) (b : Byte) : (s.withByte a b).fault = s.fault := rfl
@[simp] theorem State.withByte_draws (a : Nat) (b : Byte) : (s.withByte a b).draws = s.draws := rfl
@[simp] theorem State.withByte_readV (a : Nat) (b : Byte) (r : Reg) : (s.withByte a b).readV r = s.readV r := rfl
@[simp] theorem State.withByte_keyAt (a : Nat) (b : Byte) (k' : Fin 16) : (s.withByte a b).keyAt k' = s.keyAt k' := rfl
@[simp] theorem State.withByte_base (a : Nat) (b : Byte) : (s.withByte a b).base = s.base := rfl

/-! ## writeFlagged -/

@[simp] theorem State.writeFlagged_cfg (x : Reg) (b : Byte) (c : Bool) : (s.writeFlagged x b c).cfg = s.cfg := rfl
@[simp] theorem State.writeFlagged_mem (x : Reg) (b : Byte) (c : Bool) : (s.writeFlagged x b c).mem = s.mem := rfl
@[simp] theorem State.writeFlagged_v (x : Reg) (b : Byte) (c : Bool) : (s.writeFlagged x b c).v = (s.v.set x.val b).set regVF.val (flagByte c) := rfl
@[simp] theorem State.writeFlagged_i (x : Reg) (b : Byte) (c : Bool) : (s.writeFlagged x b c).i = s.i := rfl
@[simp] theorem State.writeFlagged_pc (x : Reg) (b : Byte) (c : Bool) : (s.writeFlagged x b c).pc = s.pc := rfl
@[simp] theorem State.writeFlagged_stack (x : Reg) (b : Byte) (c : Bool) : (s.writeFlagged x b c).stack = s.stack := rfl
@[simp] theorem State.writeFlagged_sp (x : Reg) (b : Byte) (c : Bool) : (s.writeFlagged x b c).sp = s.sp := rfl
@[simp] theorem State.writeFlagged_dt (x : Reg) (b : Byte) (c : Bool) : (s.writeFlagged x b c).dt = s.dt := rfl
@[simp] theorem State.writeFlagged_st (x : Reg) (b : Byte) (c : Bool) : (s.writeFlagged x b c).st = s.st := rfl
@[simp] theorem State.writeFlagged_disp (x : Reg) (b : Byte) (c : Bool) : (s.writeFlagged x b c).disp = s.disp := rfl
@[simp] theorem State.writeFlagged_key (x : Reg) (b : Byte) (c : Bool) : (s.writeFlagged x b c).key = s.key := rfl
@[simp] theorem State.writeFlagged_wait (x : Reg) (b : Byte) (c : Bool) : (s.writeFlagged x b c).wait = s.wait := rfl
@[simp] theorem State.writeFlagged_fault (x : Reg) (b : Byte) (c : Bool) : (s.writeFlagged x b c).fault = s.fault := rfl
@[simp] theorem State.writeFlagged_draws (x : Reg) (b : Byte) (c : Bool) : (s.writeFlagged x b c).draws = s.draws := rfl
@[simp] theorem State.writeFlagged_keyAt (x : Reg) (b : Byte) (c : Bool) (k' : Fin 16) : (s.writeFlagged x b c).keyAt k' = s.keyAt k' := rfl
@[simp] theorem State.writeFlagged_base (x : Reg) (b : Byte) (c : Bool) : (s.writeFlagged x b c).base = s.base := rfl
@[simp] theorem State.writeFlagged_byteAt (x : Reg) (b : Byte) (c : Bool) (a' : Nat) : (s.writeFlagged x b c).byteAt a' = s.byteAt a' := rfl

/-! ## raise -/

@[simp] theorem raise_cfg (k : FatalKind) : (raise k s).cfg = s.cfg := rfl
@[simp] theorem raise_mem (k : FatalKind) : (raise k s).mem = s.mem := rfl
@[simp] theorem raise_v (k : FatalKind) : (raise k s).v = s.v := rfl
@[simp] theorem raise_i (k : FatalKind) : (raise k s).i = s.i := rfl
@[simp] theorem raise_pc (k : FatalKind) : (raise k s).pc = s.pc := rfl
@[simp] theorem raise_stack (k : FatalKind) : (raise k s).stack = s.stack := rfl
@[simp] theorem raise_sp (k : FatalKind) : (raise k s).sp = s.sp := rfl
@[simp] theorem raise_dt (k : FatalKind) : (raise k s).dt = s.dt := rfl
@[simp] theorem raise_st (k : FatalKind) : (raise k s).st = s.st := rfl
@[simp] theorem raise_disp (k : FatalKind) : (raise k s).disp = s.disp := rfl
@[simp] theorem raise_key (k : FatalKind) : (raise k s).key = s.key := rfl
@[simp] theorem raise_wait (k : FatalKind) : (raise k s).wait = s.wait := rfl
@[simp] theorem raise_fault (k : FatalKind) : (raise k s).fault = some k := rfl
@[simp] theorem raise_draws (k : FatalKind) : (raise k s).draws = s.draws := rfl
@[simp] theorem raise_readV (k : FatalKind) (r : Reg) : (raise k s).readV r = s.readV r := rfl
@[simp] theorem raise_byteAt (k : FatalKind) (a : Nat) : (raise k s).byteAt a = s.byteAt a := rfl
@[simp] theorem raise_base (k : FatalKind) : (raise k s).base = s.base := rfl


/-! ## skipIf -/

@[simp] theorem State.skipIf_cfg (c : Bool) : (s.skipIf c).cfg = s.cfg := by cases c <;> rfl
@[simp] theorem State.skipIf_mem (c : Bool) : (s.skipIf c).mem = s.mem := by cases c <;> rfl
@[simp] theorem State.skipIf_v (c : Bool) : (s.skipIf c).v = s.v := by cases c <;> rfl
@[simp] theorem State.skipIf_i (c : Bool) : (s.skipIf c).i = s.i := by cases c <;> rfl
@[simp] theorem State.skipIf_pc (c : Bool) : (s.skipIf c).pc = if c then s.pc + 4 else s.pc + 2 := by cases c <;> rfl
@[simp] theorem State.skipIf_stack (c : Bool) : (s.skipIf c).stack = s.stack := by cases c <;> rfl
@[simp] theorem State.skipIf_sp (c : Bool) : (s.skipIf c).sp = s.sp := by cases c <;> rfl
@[simp] theorem State.skipIf_dt (c : Bool) : (s.skipIf c).dt = s.dt := by cases c <;> rfl
@[simp] theorem State.skipIf_st (c : Bool) : (s.skipIf c).st = s.st := by cases c <;> rfl
@[simp] theorem State.skipIf_disp (c : Bool) : (s.skipIf c).disp = s.disp := by cases c <;> rfl
@[simp] theorem State.skipIf_key (c : Bool) : (s.skipIf c).key = s.key := by cases c <;> rfl
@[simp] theorem State.skipIf_wait (c : Bool) : (s.skipIf c).wait = s.wait := by cases c <;> rfl
@[simp] theorem State.skipIf_fault (c : Bool) : (s.skipIf c).fault = s.fault := by cases c <;> rfl
@[simp] theorem State.skipIf_draws (c : Bool) : (s.skipIf c).draws = s.draws := by cases c <;> rfl
@[simp] theorem State.skipIf_readV (c : Bool) (r : Reg) : (s.skipIf c).readV r = s.readV r := by cases c <;> rfl
@[simp] theorem State.skipIf_byteAt (c : Bool) (a : Nat) : (s.skipIf c).byteAt a = s.byteAt a := by cases c <;> rfl
@[simp] theorem State.skipIf_keyAt (c : Bool) (k : Fin 16) : (s.skipIf c).keyAt k = s.keyAt k := by cases c <;> rfl

/-! ## Registers, keys and memory read after a write -/

@[simp] theorem State.readV_setV (x : Reg) (b : Byte) (r : Reg) :
    (s.setV x b).readV r = if r = x then b else s.readV r := by
  simp only [State.readV, State.setV, Vector.getElem_set, Fin.ext_iff, eq_comm]

theorem State.readV_writeFlagged (x : Reg) (b : Byte) (c : Bool) (r : Reg) :
    (s.writeFlagged x b c).readV r = if r = regVF then flagByte c else if r = x then b else s.readV r := by
  simp only [State.writeFlagged, State.readV_setV]

@[simp] theorem State.readV_setRegs (v : Vector Byte 16) (r : Reg) : (s.setRegs v).readV r = v[r.val] := rfl

@[simp] theorem State.keyAt_setKey (k : Vector Bool 16) (j : Fin 16) : (s.setKey k).keyAt j = k[j.val] := rfl

@[simp] theorem State.byteAt_setMem (m : Memory) (a : Nat) : (s.setMem m).byteAt a = readMem s.cfg m a := rfl

theorem State.base_eq : s.base = s.i.toNat := rfl

/-! ## The state after reset -/

@[simp] theorem State.atReset_cfg (c : Config) (k : Vector Bool 16) (n : Nat) : (State.atReset c k n).cfg = c := rfl
@[simp] theorem State.atReset_mem (c : Config) (k : Vector Bool 16) (n : Nat) : (State.atReset c k n).mem = [] := rfl
@[simp] theorem State.atReset_v (c : Config) (k : Vector Bool 16) (n : Nat) : (State.atReset c k n).v = Vector.replicate 16 0x00 := rfl
@[simp] theorem State.atReset_i (c : Config) (k : Vector Bool 16) (n : Nat) : (State.atReset c k n).i = 0x0000 := rfl
@[simp] theorem State.atReset_pc (c : Config) (k : Vector Bool 16) (n : Nat) : (State.atReset c k n).pc = 0x200 := rfl
@[simp] theorem State.atReset_stack (c : Config) (k : Vector Bool 16) (n : Nat) : (State.atReset c k n).stack = Vector.replicate 16 0x0000 := rfl
@[simp] theorem State.atReset_sp (c : Config) (k : Vector Bool 16) (n : Nat) : (State.atReset c k n).sp = 0 := rfl
@[simp] theorem State.atReset_dt (c : Config) (k : Vector Bool 16) (n : Nat) : (State.atReset c k n).dt = 0 := rfl
@[simp] theorem State.atReset_st (c : Config) (k : Vector Bool 16) (n : Nat) : (State.atReset c k n).st = 0 := rfl
@[simp] theorem State.atReset_disp (c : Config) (k : Vector Bool 16) (n : Nat) : (State.atReset c k n).disp = blankDisplay := rfl
@[simp] theorem State.atReset_key (c : Config) (k : Vector Bool 16) (n : Nat) : (State.atReset c k n).key = k := rfl
@[simp] theorem State.atReset_wait (c : Config) (k : Vector Bool 16) (n : Nat) : (State.atReset c k n).wait = .idle := rfl
@[simp] theorem State.atReset_fault (c : Config) (k : Vector Bool 16) (n : Nat) : (State.atReset c k n).fault = none := rfl
@[simp] theorem State.atReset_draws (c : Config) (k : Vector Bool 16) (n : Nat) : (State.atReset c k n).draws = n := rfl
@[simp] theorem State.atReset_readV (c : Config) (k : Vector Bool 16) (n : Nat) (r : Reg) :
    (State.atReset c k n).readV r = 0 := by
  simp [State.readV]
@[simp] theorem State.atReset_byteAt (c : Config) (k : Vector Bool 16) (n : Nat) (a : Nat) :
    (State.atReset c k n).byteAt a = resetByte c a := rfl

end Sys2Proof.Machine
end

