-- ==== Sys2Proof/Laws/Display.lean ====
section
/-! SUPPORT. The laws of the display buffer: one flip changes one pixel (44_display_and_random.md R152). -/

namespace Sys2Proof.Machine

theorem pixelAt_flipPixel (d : Display) (x x' : Fin 64) (y y' : Fin 32) :
    pixelAt (flipPixel d x y) x' y' = if x' = x ∧ y' = y then !pixelAt d x y else pixelAt d x' y' := by
  simp only [pixelAt, flipPixel, Vector.getElem_set]
  by_cases hy : y' = y
  · subst hy
    by_cases hx : x' = x
    · subst hx; simp
    · have : ¬ x.val = x'.val := fun e => hx (Fin.ext e.symm)
      simp [hx, this]
  · have : ¬ y.val = y'.val := fun e => hy (Fin.ext e.symm)
    simp [hy, this]

@[simp] theorem pixelAt_blankDisplay (x : Fin 64) (y : Fin 32) : pixelAt blankDisplay x y = false := by
  simp [pixelAt, blankDisplay]

/-- Two displays with the same pixels are the same display. -/
theorem display_ext {d e : Display} (h : ∀ x y, pixelAt d x y = pixelAt e x y) : d = e := by
  refine Vector.ext fun y hy => Vector.ext fun x hx => ?_
  exact h ⟨x, hx⟩ ⟨y, hy⟩

@[simp] theorem plotBit_disp (x y : Nat) (cv : Canvas) :
    (plotBit x y cv).disp = flipPixel cv.disp (Fin.ofNat 64 x) (Fin.ofNat 32 y) := rfl

@[simp] theorem plotBit_collision (x y : Nat) (cv : Canvas) :
    (plotBit x y cv).collision = (cv.collision || pixelAt cv.disp (Fin.ofNat 64 x) (Fin.ofNat 32 y)) := rfl

end Sys2Proof.Machine
end

