-- ==== Sys2Proof/Laws/Memory.lean ====
section
/-! SUPPORT. The laws of memory: a byte read after a write is the byte written, every other byte is left alone, and
every operation keeps the canonical form (20_memory.md R50, R57; log 14). -/

namespace Sys2Proof.Machine

theorem lookupCell_eraseCell (bg : Byte) (a b : Nat) (m : Memory) :
    lookupCell bg b (eraseCell a m) = if b = a then bg else lookupCell bg b m := by
  induction m with
  | nil => simp [eraseCell, lookupCell]
  | cons p rest ih => grind [eraseCell, lookupCell]

theorem lookupCell_putCell (bg : Byte) (a b : Nat) (v : Byte) (m : Memory) :
    lookupCell bg b (putCell a v m) = if b = a then v else lookupCell bg b m := by
  induction m with
  | nil => grind [putCell, lookupCell]
  | cons p rest ih => grind [putCell, lookupCell]

/-- Reading after a write: the byte written at its address, the old byte everywhere else. -/
theorem readMem_writeMem (c : Config) (m : Memory) (a b : Nat) (v : Byte) :
    readMem c (writeMem c m a v) b = if b = a then v else readMem c m b := by
  simp only [readMem, writeMem]
  split
  · next h => rw [lookupCell_eraseCell]; by_cases hb : b = a <;> simp [hb, h]
  · rw [lookupCell_putCell]

@[simp] theorem State.byteAt_withByte (s : State) (a b : Nat) (v : Byte) :
    (s.withByte a v).byteAt b = if b = a then v else s.byteAt b := readMem_writeMem _ _ _ _ _

theorem mem_eraseCell {a : Nat} {m : Memory} {p : Host.Cell} (h : p ∈ eraseCell a m) : p ∈ m := by
  induction m with
  | nil => simp [eraseCell] at h
  | cons q rest ih =>
    obtain ⟨b, u⟩ := q
    simp only [eraseCell] at h
    split at h
    · exact List.mem_cons_of_mem _ (ih h)
    · rcases List.mem_cons.1 h with h | h
      · exact h ▸ List.mem_cons_self
      · exact List.mem_cons_of_mem _ (ih h)

theorem mem_putCell {a : Nat} {v : Byte} {m : Memory} {p : Host.Cell} (h : p ∈ putCell a v m) :
    p = (a, v) ∨ p ∈ m := by
  induction m with
  | nil => simpa [putCell] using h
  | cons q rest ih =>
    obtain ⟨b, u⟩ := q
    simp only [putCell] at h
    split at h
    · simpa using h
    · split at h
      · rcases List.mem_cons.1 h with h | h
        · exact .inl h
        · exact .inr (List.mem_cons_of_mem _ h)
      · rcases List.mem_cons.1 h with h | h
        · exact .inr (h ▸ List.mem_cons_self)
        · exact (ih h).imp id (List.mem_cons_of_mem _)

theorem pairwise_eraseCell {a : Nat} {m : Memory} (h : m.Pairwise fun p q => p.1 < q.1) :
    (eraseCell a m).Pairwise fun p q => p.1 < q.1 := by
  induction m with
  | nil => exact List.Pairwise.nil
  | cons q rest ih =>
    obtain ⟨b, u⟩ := q
    rw [List.pairwise_cons] at h
    simp only [eraseCell]
    split
    · exact ih h.2
    · exact List.pairwise_cons.2 ⟨fun p hp => h.1 p (mem_eraseCell hp), ih h.2⟩

theorem pairwise_putCell {a : Nat} {v : Byte} {m : Memory} (h : m.Pairwise fun p q => p.1 < q.1) :
    (putCell a v m).Pairwise fun p q => p.1 < q.1 := by
  induction m with
  | nil => simp [putCell]
  | cons q rest ih =>
    obtain ⟨b, u⟩ := q
    have h' := h
    rw [List.pairwise_cons] at h
    simp only [putCell]
    split
    · next hab =>
      refine List.pairwise_cons.2 ⟨fun p hp => ?_, h'⟩
      rcases List.mem_cons.1 hp with hp | hp
      · simpa [hp] using hab
      · exact lt_trans hab (h.1 p hp)
    · split
      · next hab => exact List.pairwise_cons.2 ⟨fun p hp => by simpa [hab] using h.1 p hp, h.2⟩
      · next h1 h2 =>
        refine List.pairwise_cons.2 ⟨fun p hp => ?_, ih h.2⟩
        rcases mem_putCell hp with hp | hp
        · subst hp; simp only; omega
        · exact h.1 p hp

/-- A write inside the store keeps the canonical form. -/
theorem Memory.wf_writeMem {c : Config} {m : Memory} {a : Nat} (v : Byte) (ha : a ≤ 0xFFF) (h : Memory.wf c m) :
    Memory.wf c (writeMem c m a v) := by
  simp only [writeMem]
  split
  · exact ⟨pairwise_eraseCell h.1, fun p hp => h.2 p (mem_eraseCell hp)⟩
  · next hv =>
    refine ⟨pairwise_putCell h.1, fun p hp => ?_⟩
    rcases mem_putCell hp with hp | hp
    · subst hp; exact ⟨ha, hv⟩
    · exact h.2 p hp

/-- Memory after reset lists nothing, which is the canonical form. -/
theorem Memory.wf_nil (c : Config) : Memory.wf c [] := ⟨List.Pairwise.nil, by simp⟩

theorem State.wf_withByte {s : State} {a : Nat} (v : Byte) (ha : a ≤ 0xFFF) (h : Memory.wf s.cfg s.mem) :
    Memory.wf (s.withByte a v).cfg (s.withByte a v).mem := Memory.wf_writeMem v ha h

end Sys2Proof.Machine
end

