-- ==== Sys2Proof/Laws/Ops.lean ====
section
/-! SUPPORT. One specification lemma for each shared operation: what it can answer, and when. -/

namespace Sys2Proof.Machine

/-! ## The end of an instruction -/

@[simp] theorem settle_ok (s t : State) : settle s (.ok t) = .next t := rfl

@[simp] theorem settle_error (s : State) (k : FatalKind) : settle s (.error k) = .next (raise k s) := rfl

/-- An instruction that can raise completes with its writes, or with the fault record alone. -/
theorem settle_cases {s t : State} {r : Except FatalKind State} (h : settle s r = .next t) :
    r = .ok t ∨ ∃ k, r = .error k ∧ t = raise k s := by
  cases r with
  | ok u => exact .inl (by simpa using h)
  | error k => exact .inr ⟨k, rfl, by simpa using h.symm⟩

/-! ## The call stack -/

theorem push_ok {w : Word} {s : State} (h : s.sp.val < 16) :
    push w s = .ok (s.setStack (s.stack.set s.sp.val w) ⟨s.sp.val + 1, by omega⟩) := by
  simp [push, h]

theorem push_overflow {w : Word} {s : State} (h : s.sp.val = 16) : push w s = .error .stackOverflow := by
  simp [push, h]

theorem pop_ok {s : State} (h : s.sp.val ≠ 0) :
    pop s = .ok (s.stack[s.sp.val - 1]'(by omega), s.setStack s.stack ⟨s.sp.val - 1, by omega⟩) := by
  simp [pop, h]

theorem pop_underflow {s : State} (h : s.sp.val = 0) : pop s = .error .stackUnderflow := by
  simp [pop, h]

/-! ## Data addresses -/

/-- The lowest bad address of a range, in closed form. -/
theorem firstBad_eq (a count : Nat) :
    firstBad a count = if count = 0 ∨ a + count ≤ 0x1000 then none else some (max a 0x1000) := by
  induction count generalizing a with
  | zero => simp [firstBad]
  | succ n ih =>
    grind [firstBad]

theorem checkData_ok {c : Config} {a count : Nat} (h : c.dataOob = .wrap ∨ count = 0 ∨ a + count ≤ 0x1000) :
    checkData c a count = .ok () := by
  simp only [checkData, firstBad_eq]
  rcases hc : c.dataOob <;> simp_all

theorem checkData_error {c : Config} {a count : Nat} (hc : c.dataOob = .fault) (h0 : count ≠ 0)
    (h : 0x1000 < a + count) : checkData c a count = .error (.addressOutOfRange .data (max a 0x1000)) := by
  have : ¬ (count = 0 ∨ a + count ≤ 0x1000) := by omega
  simp [checkData, firstBad_eq, hc, this]

/-- A checked range is one that raises nothing, or the check raises at the lowest bad address. -/
theorem checkData_cases (c : Config) (a count : Nat) :
    (checkData c a count = .ok () ∧ (c.dataOob = .wrap ∨ count = 0 ∨ a + count ≤ 0x1000)) ∨
    (checkData c a count = .error (.addressOutOfRange .data (max a 0x1000)) ∧ c.dataOob = .fault ∧ count ≠ 0 ∧
      0x1000 < a + count) := by
  by_cases h : c.dataOob = .wrap ∨ count = 0 ∨ a + count ≤ 0x1000
  · exact .inl ⟨checkData_ok h, h⟩
  · have hf : c.dataOob = .fault := by cases hc : c.dataOob <;> simp_all
    exact .inr ⟨checkData_error hf (by omega) (by omega), hf, by omega, by omega⟩

theorem dataLocation_ok {c : Config} {a : Nat} (h : c.dataOob = .wrap ∨ a ≤ 0xFFF) :
    dataLocation c a = .ok (a % 4096) := by
  simp only [dataLocation]
  split
  · rw [Nat.mod_eq_of_lt (by omega)]
  · rcases h with h | h
    · simp [h]
    · omega

theorem memRead_ok {s : State} {a : Nat} (h : s.cfg.dataOob = .wrap ∨ a ≤ 0xFFF) :
    memRead s a = .ok (s.byteAt (a % 4096)) := by
  simp [memRead, dataLocation_ok h, Except.map]

theorem memWrite_ok {s : State} {a : Nat} {v : Byte} (h : s.cfg.dataOob = .wrap ∨ a ≤ 0xFFF) :
    memWrite s a v = .ok (s.withByte (a % 4096) v) := by
  simp [memWrite, dataLocation_ok h, Except.map]

/-! ## Block transfers -/

theorem memReadSeq_ok {s : State} {a count : Nat} (h : s.cfg.dataOob = .wrap ∨ count = 0 ∨ a + count ≤ 0x1000) :
    memReadSeq s a count = .ok ((List.range count).map fun k => s.byteAt ((a + k) % 4096)) := by
  induction count generalizing a with
  | zero => rfl
  | succ n ih =>
    have h1 : s.cfg.dataOob = .wrap ∨ a ≤ 0xFFF := h.imp_right fun _ => by omega
    have h2 : s.cfg.dataOob = .wrap ∨ n = 0 ∨ a + 1 + n ≤ 0x1000 := h.imp_right fun _ => by omega
    simp only [memReadSeq, memRead_ok h1, ih h2, List.range_succ_eq_map, List.map_cons, List.map_map]
    simp only [bind, Except.bind, pure, Except.pure, Nat.add_zero]
    congr 3
    funext k
    simp only [Function.comp, Nat.succ_eq_add_one]
    congr 2
    omega

theorem readBlock_ok {s : State} {a count : Nat} (h : s.cfg.dataOob = .wrap ∨ count = 0 ∨ a + count ≤ 0x1000) :
    readBlock s a count = .ok ((List.range count).map fun k => s.byteAt ((a + k) % 4096)) := by
  simp [readBlock, checkData_ok h, memReadSeq_ok h, bind, Except.bind]

theorem readBlock_error {s : State} {a count : Nat} (hc : s.cfg.dataOob = .fault) (h0 : count ≠ 0)
    (h : 0x1000 < a + count) : readBlock s a count = .error (.addressOutOfRange .data (max a 0x1000)) := by
  simp [readBlock, checkData_error hc h0 h, bind, Except.bind]

/-- What a sequence of byte writes does: memory alone changes; the bytes land at a, a+1, … (modulo 4096); every other
byte is left alone; the canonical form is kept. -/
theorem memWriteSeq_ok {s : State} {a : Nat} {bytes : List Byte} (hl : bytes.length ≤ 4096)
    (h : s.cfg.dataOob = .wrap ∨ bytes.length = 0 ∨ a + bytes.length ≤ 0x1000) :
    ∃ m, memWriteSeq s a bytes = .ok (s.setMem m) ∧
      (∀ k, (hk : k < bytes.length) → readMem s.cfg m ((a + k) % 4096) = bytes[k]) ∧
      (∀ b, (∀ k, k < bytes.length → b ≠ (a + k) % 4096) → readMem s.cfg m b = s.byteAt b) ∧
      (Memory.wf s.cfg s.mem → Memory.wf s.cfg m) := by
  induction bytes generalizing s a with
  | nil => exact ⟨s.mem, rfl, by simp, fun _ _ => rfl, id⟩
  | cons v vs ih =>
    rw [List.length_cons] at h hl
    have h1 : s.cfg.dataOob = .wrap ∨ a ≤ 0xFFF := h.imp_right fun _ => by omega
    obtain ⟨m, hm, hin, hout, hwf⟩ := ih (s := s.withByte (a % 4096) v) (a := a + 1) (by omega)
      (h.imp_right fun _ => by omega)
    simp only [State.withByte_cfg] at hin hout hwf
    refine ⟨m, ?_, fun k hk => ?_, fun b hb => ?_, fun hs => ?_⟩
    · simp only [memWriteSeq, memWrite_ok h1, bind, Except.bind, hm]; rfl
    · cases k with
      | zero =>
        rw [hout _ (fun j hj => by omega)]
        simp
      | succ k =>
        rw [List.length_cons] at hk
        have := hin k (by omega)
        rw [show a + 1 + k = a + (k + 1) by omega] at this
        simpa using this
    · rw [hout b fun j hj => by
        have := hb (j + 1) (by simpa using hj)
        rwa [show a + (j + 1) = a + 1 + j by omega] at this]
      have := hb 0 (by simp)
      rw [Nat.add_zero] at this
      rw [State.byteAt_withByte, if_neg this]
    · exact hwf (Memory.wf_writeMem v (by omega) hs)

theorem writeBlock_ok {s : State} {a : Nat} {bytes : List Byte} (hl : bytes.length ≤ 4096)
    (h : s.cfg.dataOob = .wrap ∨ bytes.length = 0 ∨ a + bytes.length ≤ 0x1000) :
    ∃ m, writeBlock s a bytes = .ok (s.setMem m) ∧
      (∀ k, (hk : k < bytes.length) → readMem s.cfg m ((a + k) % 4096) = bytes[k]) ∧
      (∀ b, (∀ k, k < bytes.length → b ≠ (a + k) % 4096) → readMem s.cfg m b = s.byteAt b) ∧
      (Memory.wf s.cfg s.mem → Memory.wf s.cfg m) := by
  simpa [writeBlock, checkData_ok h, bind, Except.bind] using memWriteSeq_ok hl h

theorem writeBlock_error {s : State} {a : Nat} {bytes : List Byte} (hc : s.cfg.dataOob = .fault)
    (h0 : bytes.length ≠ 0) (h : 0x1000 < a + bytes.length) :
    writeBlock s a bytes = .error (.addressOutOfRange .data (max a 0x1000)) := by
  simp [writeBlock, checkData_error hc h0 h, bind, Except.bind]

/-! ## Operand forms -/

@[simp] theorem decimalDigits_length (b : Byte) : (decimalDigits b).length = 3 := rfl

@[simp] theorem regBlock_length (s : State) (x : Reg) : (regBlock s x).length = x.val + 1 := by
  simp [regBlock]

theorem regBlock_getElem (s : State) (x : Reg) (k : Nat) (h : k < (regBlock s x).length) :
    (regBlock s x)[k] = s.readV ⟨k, by simp at h; omega⟩ := by
  simp [regBlock, State.readV]

/-- Vr after bytes are loaded from Vk up: the byte at its place, or the old value. -/
theorem loadRegs_getElem (v : Vector Byte 16) (k : Nat) (bs : List Byte) (r : Nat) (hr : r < 16) :
    (loadRegs v k bs)[r] = if h : k ≤ r ∧ r < k + bs.length then bs[r - k]'(by omega) else v[r] := by
  induction bs generalizing v k with
  | nil => simp only [loadRegs, List.length_nil]; rw [dif_neg (by omega)]
  | cons b bs ih =>
    simp only [loadRegs, ih, List.length_cons]
    rcases lt_trichotomy r k with h | h | h
    · rw [dif_neg (by omega), dif_neg (by omega), Vector.getElem_setIfInBounds, if_neg (by omega)]
    · subst h
      rw [dif_neg (by omega), dif_pos (by omega), Vector.getElem_setIfInBounds, if_pos rfl]
      simp
    · by_cases h2 : r < k + 1 + bs.length
      · rw [dif_pos (by omega), dif_pos (by omega)]
        have : r - k = (r - (k + 1)) + 1 := by omega
        simp [this]
      · rw [dif_neg (by omega), dif_neg (by omega), Vector.getElem_setIfInBounds, if_neg (by omega)]

theorem keyIndex_ok {c : Config} {b : Byte} (h : c.keyOob = .lowNibble ∨ b.toNat < 16) :
    keyIndex c b = .ok (Fin.ofNat 16 b.toNat) := by
  simp only [keyIndex]
  split
  · next hb => congr 1; ext; simp [Nat.mod_eq_of_lt hb]
  · rcases h with h | h
    · simp [h]
    · omega

theorem keyIndex_error {c : Config} {b : Byte} (hc : c.keyOob = .fault) (h : 16 ≤ b.toNat) :
    keyIndex c b = .error (.keyIndexOutOfRange b) := by
  simp [keyIndex, hc, Nat.not_lt.2 h]

/-! ## The fetch -/

theorem fetchWord_ok {s : State} {p : Word} (h : p.toNat < 0xFFF) :
    fetchWord s p = .ok (wordOfBytes (s.byteAt p.toNat) (s.byteAt (p.toNat + 1))) := by
  simp only [fetchWord]; rw [if_neg (by omega)]

theorem fetchWord_error {s : State} {p : Word} (h : 0xFFF ≤ p.toNat) :
    fetchWord s p = .error (.addressOutOfRange .fetch p.toNat) := by
  simp only [fetchWord]; rw [if_pos (by omega)]

/-- The big-endian word as a number (20_memory.md R55). -/
theorem wordOfBytes_toNat (hi lo : Byte) : (wordOfBytes hi lo).toNat = hi.toNat * 256 + lo.toNat := by
  simp [wordOfBytes]; omega

end Sys2Proof.Machine
end

