-- ==== Sys2Proof/Laws/Step.lean ====
section
/-! SUPPORT. What one cycle can do, said once (30_encoding.md R81, 60_exceptions.md R184): halted, fetch fault, Unknown
word, or the decoded instruction. Later proofs cite these cases and do not unfold the cycle. -/

namespace Sys2Proof.Machine

theorem stepCycle_halted {s : State} {k : FatalKind} (h : s.fault = some k) :
    stepCycle s = .next (s, .fault k) := by
  simp [stepCycle, h]

theorem stepCycle_fetchFault {s : State} {k : FatalKind} (h : s.fault = none) (hf : fetchWord s s.pc = .error k) :
    stepCycle s = .next (raise k s, .fault k) := by
  simp [stepCycle, h, hf]

theorem stepCycle_unknown {s : State} {w u : Word} (h : s.fault = none) (hf : fetchWord s s.pc = .ok w)
    (hd : decode w = .unknown u) :
    stepCycle s = .next (execUnknown (discardStaleWait (.unknown u) s), .unknownOpcode u) := by
  simp [stepCycle, h, hf, hd]

theorem stepCycle_instr {s : State} {w : Word} {i : Instr} (h : s.fault = none) (hf : fetchWord s s.pc = .ok w)
    (hd : decode w = .instr i) :
    stepCycle s = finish s i (exec i (discardStaleWait (.instr i) s)) := by
  simp [stepCycle, h, hf, hd]

/-- The step is the cycle without its outcome. -/
theorem step_of_stepCycle {s t : State} {o : CycleOutcome} (h : stepCycle s = .next (t, o)) : step s = .next t := by
  simp [step, h]

theorem stepCycle_of_step {s t : State} (h : step s = .next t) : ∃ o, stepCycle s = .next (t, o) := by
  simp only [step] at h
  split at h
  · next r hr => simp only [Host.Outcome.next.injEq] at h; subst h; exact ⟨r.2, hr⟩
  · cases h
  · cases h

/-- The end of an instruction: its state, or the fault record alone over the state before the cycle. -/
theorem finish_next {s0 t u : State} {i : Instr} {o : CycleOutcome} (h : finish s0 i (.next t) = .next (u, o)) :
    (∃ k, t.fault = some k ∧ u = raise k s0 ∧ o = .fault k) ∨ (t.fault = none ∧ u = t ∧ o = completion i t) := by
  simp only [finish] at h
  split at h
  · next k hk =>
    simp only [Host.Outcome.next.injEq, Prod.mk.injEq] at h
    exact .inl ⟨k, hk, h.1.symm, h.2.symm⟩
  · next hn =>
    simp only [Host.Outcome.next.injEq, Prod.mk.injEq] at h
    exact .inr ⟨hn, h.1.symm, h.2.symm⟩

/-- Everything one cycle can do. -/
theorem stepCycle_cases {s u : State} {o : CycleOutcome} (h : stepCycle s = .next (u, o)) :
    (∃ k, s.fault = some k ∧ u = s ∧ o = .fault k) ∨
    (∃ k, s.fault = none ∧ fetchWord s s.pc = .error k ∧ u = raise k s ∧ o = .fault k) ∨
    (∃ w v, s.fault = none ∧ fetchWord s s.pc = .ok w ∧ decode w = .unknown v ∧
      u = execUnknown (discardStaleWait (.unknown v) s) ∧ o = .unknownOpcode v) ∨
    (∃ w i t, s.fault = none ∧ fetchWord s s.pc = .ok w ∧ decode w = .instr i ∧
      exec i (discardStaleWait (.instr i) s) = .next t ∧
      ((∃ k, t.fault = some k ∧ u = raise k s ∧ o = .fault k) ∨
        (t.fault = none ∧ u = t ∧ o = completion i t))) := by
  rcases hf : s.fault with _ | k
  · rcases hw : fetchWord s s.pc with k | w
    · rw [stepCycle_fetchFault hf hw] at h
      simp only [Host.Outcome.next.injEq, Prod.mk.injEq] at h
      exact .inr (.inl ⟨k, rfl, rfl, h.1.symm, h.2.symm⟩)
    · rcases hd : decode w with i | v
      · rw [stepCycle_instr hf hw hd] at h
        rcases he : exec i (discardStaleWait (.instr i) s) with t | r | r
        · rw [he] at h
          exact .inr (.inr (.inr ⟨w, i, t, rfl, rfl, hd, he, finish_next h⟩))
        · rw [he] at h; cases h
        · rw [he] at h; cases h
      · rw [stepCycle_unknown hf hw hd] at h
        simp only [Host.Outcome.next.injEq, Prod.mk.injEq] at h
        exact .inr (.inr (.inl ⟨w, v, rfl, rfl, hd, h.1.symm, h.2.symm⟩))
  · rw [stepCycle_halted hf] at h
    simp only [Host.Outcome.next.injEq, Prod.mk.injEq] at h
    exact .inl ⟨k, rfl, h.1.symm, h.2.symm⟩

/-! ## The stale-wait discard -/

/-- The discard writes the wait alone. -/
theorem discardStaleWait_eq (d : Decoded) (s : State) :
    discardStaleWait d s = s ∨ discardStaleWait d s = s.setWait .idle := by
  simp only [discardStaleWait]
  split
  · exact .inl rfl
  · split
    · exact .inl rfl
    · exact .inr rfl

/-- For anything but an Fx0A no wait is left. -/
theorem discardStaleWait_wait {d : Decoded} (h : ∀ x, d ≠ .instr (.ldVxK x)) (s : State) :
    (discardStaleWait d s).wait = .idle := by
  simp only [discardStaleWait]
  split
  · assumption
  · rw [if_neg (h _)]; rfl

end Sys2Proof.Machine
end

