-- ==== Sys2Proof/Laws/Frames.lean ====
section
/-! SUPPORT. Frames compose: what each update leaves alone, and what a sequence of updates leaves alone. -/

namespace Sys2Proof.Machine

theorem SameExcept.refl (l : List Part) (s : State) : SameExcept l s s := by
  intro p _
  cases p <;> simp [Part.Same]

theorem Part.Same.trans {p : Part} {s t u : State} (h : p.Same s t) (h' : p.Same t u) : p.Same s u := by
  cases p <;> simp_all [Part.Same]

theorem SameExcept.trans {l l' : List Part} {s t u : State} (h : SameExcept l s t) (h' : SameExcept l' t u) :
    SameExcept (l ++ l') s u := by
  intro p hp
  rw [List.mem_append, not_or] at hp
  exact (h p hp.1).trans (h' p hp.2)

theorem SameExcept.mono {l l' : List Part} {s t : State} (h : SameExcept l s t) (hl : ∀ p ∈ l, p ∈ l') :
    SameExcept l' s t := fun p hp => h p fun hm => hp (hl p hm)

variable (s : State)

theorem frame_setV (x : Reg) (b : Byte) : SameExcept [.v] s (s.setV x b) := by
  intro p hp
  cases p <;> first | exact fun _ => rfl | exact fun _ _ => rfl | rfl | simp at hp

theorem frame_setRegs (v : Vector Byte 16) : SameExcept [.v] s (s.setRegs v) := by
  intro p hp
  cases p <;> first | exact fun _ => rfl | exact fun _ _ => rfl | rfl | simp at hp

theorem frame_setI (w : Word) : SameExcept [.i] s (s.setI w) := by
  intro p hp
  cases p <;> first | exact fun _ => rfl | exact fun _ _ => rfl | rfl | simp at hp

theorem frame_setPc (w : Word) : SameExcept [.pc] s (s.setPc w) := by
  intro p hp
  cases p <;> first | exact fun _ => rfl | exact fun _ _ => rfl | rfl | simp at hp

theorem frame_setDt (b : Byte) : SameExcept [.dt] s (s.setDt b) := by
  intro p hp
  cases p <;> first | exact fun _ => rfl | exact fun _ _ => rfl | rfl | simp at hp

theorem frame_setSt (b : Byte) : SameExcept [.st] s (s.setSt b) := by
  intro p hp
  cases p <;> first | exact fun _ => rfl | exact fun _ _ => rfl | rfl | simp at hp

theorem frame_setDisp (d : Display) : SameExcept [.disp] s (s.setDisp d) := by
  intro p hp
  cases p <;> first | exact fun _ => rfl | exact fun _ _ => rfl | rfl | simp at hp

theorem frame_setKey (k : Vector Bool 16) : SameExcept [.key] s (s.setKey k) := by
  intro p hp
  cases p <;> first | exact fun _ => rfl | exact fun _ _ => rfl | rfl | simp at hp

theorem frame_setWait (w : Wait) : SameExcept [.wait] s (s.setWait w) := by
  intro p hp
  cases p <;> first | exact fun _ => rfl | exact fun _ _ => rfl | rfl | simp at hp

theorem frame_setFault (f : Option FatalKind) : SameExcept [.fault] s (s.setFault f) := by
  intro p hp
  cases p <;> first | exact fun _ => rfl | exact fun _ _ => rfl | rfl | simp at hp

theorem frame_setMem (m : Memory) : SameExcept [.mem] s (s.setMem m) := by
  intro p hp
  cases p <;> first | exact fun _ => rfl | exact fun _ _ => rfl | rfl | simp at hp

theorem frame_withByte (a : Nat) (b : Byte) : SameExcept [.mem] s (s.withByte a b) := by
  intro p hp
  cases p <;> first | exact fun _ => rfl | exact fun _ _ => rfl | rfl | simp at hp

theorem frame_setStack (k : Vector Word 16) (p : Fin 17) : SameExcept [.stack, .sp] s (s.setStack k p) := by
  intro p hp
  cases p <;> first | exact fun _ => rfl | exact fun _ _ => rfl | rfl | simp at hp

theorem frame_countDraw : SameExcept [.draws] s s.countDraw := by
  intro p hp
  cases p <;> first | exact fun _ => rfl | exact fun _ _ => rfl | rfl | simp at hp

theorem frame_toNext : SameExcept [.pc] s s.toNext := by
  intro p hp
  cases p <;> first | exact fun _ => rfl | exact fun _ _ => rfl | rfl | simp at hp

theorem frame_toSkip : SameExcept [.pc] s s.toSkip := by
  intro p hp
  cases p <;> first | exact fun _ => rfl | exact fun _ _ => rfl | rfl | simp at hp

theorem frame_writeFlagged (x : Reg) (b : Byte) (c : Bool) : SameExcept [.v] s (s.writeFlagged x b c) := by
  intro p hp
  cases p <;> first | exact fun _ => rfl | exact fun _ _ => rfl | rfl | simp at hp

theorem frame_skipIf (c : Bool) : SameExcept [.pc] s (s.skipIf c) := by
  cases c
  · exact frame_toNext s
  · exact frame_toSkip s

/-- A fatal condition writes the fault record alone (60_exceptions.md R182). -/
theorem frame_raise (k : FatalKind) : SameExcept [.fault] s (raise k s) := frame_setFault s (some k)

/-- The end of an instruction that can raise: the frame of its writes, with the fault record. -/
theorem frame_settle {s t : State} {r : Except FatalKind State} {l : List Part} (h : settle s r = .next t)
    (hl : Part.fault ∈ l) (hr : ∀ u, r = .ok u → SameExcept l s u) : SameExcept l s t := by
  rcases settle_cases h with h | ⟨k, -, rfl⟩
  · exact hr t h
  · exact (frame_raise s k).mono (by simpa using hl)

theorem frame_push {s t : State} {w : Word} (h : push w s = .ok t) : SameExcept [.stack, .sp] s t := by
  simp only [push] at h
  split at h
  · cases h; exact frame_setStack _ _ _
  · cases h

/-- A pop moves the stack pointer and leaves every entry in place. -/
theorem frame_pop {s t : State} {w : Word} (h : pop s = .ok (w, t)) : SameExcept [.sp] s t := by
  simp only [pop] at h
  split at h
  · cases h
  · cases h
    intro p hp
    cases p <;> first | exact fun _ => rfl | exact fun _ _ => rfl | rfl | simp at hp

theorem frame_writeBlock {s t : State} {a : Nat} {bytes : List Byte} (hl : bytes.length ≤ 4096)
    (h : writeBlock s a bytes = .ok t) : SameExcept [.mem] s t := by
  rcases checkData_cases s.cfg a bytes.length with ⟨-, hc⟩ | ⟨hc, -⟩
  · obtain ⟨m, hm, -⟩ := writeBlock_ok hl hc
    rw [hm] at h; cases h; exact frame_setMem _ _
  · simp [writeBlock, hc, bind, Except.bind] at h

end Sys2Proof.Machine
end

