-- ==== Sys2Proof/Laws/PerInstr.lean ====
section
/-! SUPPORT. Laws of the instructions as syntax, one lemma per constructor. EncodeRow: the word the encoder writes for
a well-formed instruction selects the row of the opcode table (30_encoding.md R74) that bears its mnemonic. -/

namespace Sys2Proof.Laws.EncodeRow

def Statement (i : Instr) : Prop :=
  WellFormed i = true → ∃ r ∈ opcodeTable, r.mnemonic = mnemonicOf i ∧ r.selects (encode i) = true

/-- A row of the table that bears the mnemonic and selects the word. -/
theorem of_row {i : Instr} (value mask : Word) (hmem : ⟨mnemonicOf i, value, mask⟩ ∈ opcodeTable)
    (hsel : encode i &&& mask = value) : Statement i :=
  fun _ => ⟨_, hmem, rfl, by simpa [Row.selects] using hsel⟩

theorem nnn_row (op : Nat) (nnn : Addr12) (hop : op < 16) :
    nnnWord op nnn &&& 0xF000 = BitVec.ofNat 16 (op * 4096) := by
  have h := nnnWord_toNat op nnn hop
  have := nnn.isLt
  exact (mask_op _ _ hop).2 (by unfold opField; omega)

theorem xnn_row (op : Nat) (x : Reg) (nn : Byte) (hop : op < 16) :
    xnnWord op x nn &&& 0xF000 = BitVec.ofNat 16 (op * 4096) := by
  have h := xnnWord_toNat op x nn hop
  have := nn.isLt
  have := x.isLt
  exact (mask_op _ _ hop).2 (by unfold opField; omega)

theorem xyn_row (op : Nat) (x y : Reg) (n : Nat) (hop : op < 16) (hn : n < 16) :
    xynWord op x y n &&& 0xF00F = BitVec.ofNat 16 (op * 4096 + n) := by
  have h := xynWord_toNat op x y n hop hn
  have := x.isLt
  have := y.isLt
  exact (mask_op_n _ _ _ hop hn).2 (by unfold opField nField; omega)

theorem xyn_row_op (op : Nat) (x y : Reg) (n : Nat) (hop : op < 16) (hn : n < 16) :
    xynWord op x y n &&& 0xF000 = BitVec.ofNat 16 (op * 4096) := by
  have h := xynWord_toNat op x y n hop hn
  have := x.isLt
  have := y.isLt
  exact (mask_op _ _ hop).2 (by unfold opField; omega)

theorem xSel_row (op : Nat) (x : Reg) (sel : Nat) (hop : op < 16) (hsel : sel < 256) :
    xSelWord op x sel &&& 0xF0FF = BitVec.ofNat 16 (op * 4096 + sel) := by
  have h := xSelWord_toNat op x sel hop hsel
  have := x.isLt
  exact (mask_op_sel _ _ _ hop hsel).2 (by unfold opField selField; omega)

theorem cls : Statement .cls :=
  of_row 0x00E0 0xFFFF (by simp [opcodeTable, mnemonicOf]) (mask_all _)

theorem ret : Statement .ret :=
  of_row 0x00EE 0xFFFF (by simp [opcodeTable, mnemonicOf]) (mask_all _)

theorem jp (nnn : Addr12) : Statement (.jp nnn) :=
  of_row 0x1000 0xF000 (by simp [opcodeTable, mnemonicOf]) (nnn_row 0x1 nnn (by decide))

theorem call (nnn : Addr12) : Statement (.call nnn) :=
  of_row 0x2000 0xF000 (by simp [opcodeTable, mnemonicOf]) (nnn_row 0x2 nnn (by decide))

theorem seImm (x : Reg) (nn : Byte) : Statement (.seImm x nn) :=
  of_row 0x3000 0xF000 (by simp [opcodeTable, mnemonicOf]) (xnn_row 0x3 x nn (by decide))

theorem sneImm (x : Reg) (nn : Byte) : Statement (.sneImm x nn) :=
  of_row 0x4000 0xF000 (by simp [opcodeTable, mnemonicOf]) (xnn_row 0x4 x nn (by decide))

theorem seReg (x y : Reg) : Statement (.seReg x y) :=
  of_row 0x5000 0xF00F (by simp [opcodeTable, mnemonicOf]) (xyn_row 0x5 x y 0x0 (by decide) (by decide))

theorem ldImm (x : Reg) (nn : Byte) : Statement (.ldImm x nn) :=
  of_row 0x6000 0xF000 (by simp [opcodeTable, mnemonicOf]) (xnn_row 0x6 x nn (by decide))

theorem addImm (x : Reg) (nn : Byte) : Statement (.addImm x nn) :=
  of_row 0x7000 0xF000 (by simp [opcodeTable, mnemonicOf]) (xnn_row 0x7 x nn (by decide))

theorem ldReg (x y : Reg) : Statement (.ldReg x y) :=
  of_row 0x8000 0xF00F (by simp [opcodeTable, mnemonicOf]) (xyn_row 0x8 x y 0x0 (by decide) (by decide))

theorem or (x y : Reg) : Statement (.or x y) :=
  of_row 0x8001 0xF00F (by simp [opcodeTable, mnemonicOf]) (xyn_row 0x8 x y 0x1 (by decide) (by decide))

theorem and (x y : Reg) : Statement (.and x y) :=
  of_row 0x8002 0xF00F (by simp [opcodeTable, mnemonicOf]) (xyn_row 0x8 x y 0x2 (by decide) (by decide))

theorem xor (x y : Reg) : Statement (.xor x y) :=
  of_row 0x8003 0xF00F (by simp [opcodeTable, mnemonicOf]) (xyn_row 0x8 x y 0x3 (by decide) (by decide))

theorem addReg (x y : Reg) : Statement (.addReg x y) :=
  of_row 0x8004 0xF00F (by simp [opcodeTable, mnemonicOf]) (xyn_row 0x8 x y 0x4 (by decide) (by decide))

theorem sub (x y : Reg) : Statement (.sub x y) :=
  of_row 0x8005 0xF00F (by simp [opcodeTable, mnemonicOf]) (xyn_row 0x8 x y 0x5 (by decide) (by decide))

theorem shr (x y : Reg) : Statement (.shr x y) :=
  of_row 0x8006 0xF00F (by simp [opcodeTable, mnemonicOf]) (xyn_row 0x8 x y 0x6 (by decide) (by decide))

theorem subn (x y : Reg) : Statement (.subn x y) :=
  of_row 0x8007 0xF00F (by simp [opcodeTable, mnemonicOf]) (xyn_row 0x8 x y 0x7 (by decide) (by decide))

theorem shl (x y : Reg) : Statement (.shl x y) :=
  of_row 0x800E 0xF00F (by simp [opcodeTable, mnemonicOf]) (xyn_row 0x8 x y 0xE (by decide) (by decide))

theorem sneReg (x y : Reg) : Statement (.sneReg x y) :=
  of_row 0x9000 0xF00F (by simp [opcodeTable, mnemonicOf]) (xyn_row 0x9 x y 0x0 (by decide) (by decide))

theorem ldI (nnn : Addr12) : Statement (.ldI nnn) :=
  of_row 0xA000 0xF000 (by simp [opcodeTable, mnemonicOf]) (nnn_row 0xA nnn (by decide))

theorem jpV0 (nnn : Addr12) : Statement (.jpV0 nnn) :=
  of_row 0xB000 0xF000 (by simp [opcodeTable, mnemonicOf]) (nnn_row 0xB nnn (by decide))

theorem rnd (x : Reg) (nn : Byte) : Statement (.rnd x nn) :=
  of_row 0xC000 0xF000 (by simp [opcodeTable, mnemonicOf]) (xnn_row 0xC x nn (by decide))

theorem drw (x y : Reg) (n : Nat) : Statement (.drw x y n) := fun h =>
  of_row 0xD000 0xF000 (by simp [opcodeTable, mnemonicOf])
    (xyn_row_op 0xD x y n (by decide) (Nat.lt_succ_of_le (of_decide_eq_true h))) h

theorem skp (x : Reg) : Statement (.skp x) :=
  of_row 0xE09E 0xF0FF (by simp [opcodeTable, mnemonicOf]) (xSel_row 0xE x 0x9E (by decide) (by decide))

theorem sknp (x : Reg) : Statement (.sknp x) :=
  of_row 0xE0A1 0xF0FF (by simp [opcodeTable, mnemonicOf]) (xSel_row 0xE x 0xA1 (by decide) (by decide))

theorem ldVxDt (x : Reg) : Statement (.ldVxDt x) :=
  of_row 0xF007 0xF0FF (by simp [opcodeTable, mnemonicOf]) (xSel_row 0xF x 0x07 (by decide) (by decide))

theorem ldVxK (x : Reg) : Statement (.ldVxK x) :=
  of_row 0xF00A 0xF0FF (by simp [opcodeTable, mnemonicOf]) (xSel_row 0xF x 0x0A (by decide) (by decide))

theorem ldDtVx (x : Reg) : Statement (.ldDtVx x) :=
  of_row 0xF015 0xF0FF (by simp [opcodeTable, mnemonicOf]) (xSel_row 0xF x 0x15 (by decide) (by decide))

theorem ldStVx (x : Reg) : Statement (.ldStVx x) :=
  of_row 0xF018 0xF0FF (by simp [opcodeTable, mnemonicOf]) (xSel_row 0xF x 0x18 (by decide) (by decide))

theorem addIVx (x : Reg) : Statement (.addIVx x) :=
  of_row 0xF01E 0xF0FF (by simp [opcodeTable, mnemonicOf]) (xSel_row 0xF x 0x1E (by decide) (by decide))

theorem ldFVx (x : Reg) : Statement (.ldFVx x) :=
  of_row 0xF029 0xF0FF (by simp [opcodeTable, mnemonicOf]) (xSel_row 0xF x 0x29 (by decide) (by decide))

theorem ldBVx (x : Reg) : Statement (.ldBVx x) :=
  of_row 0xF033 0xF0FF (by simp [opcodeTable, mnemonicOf]) (xSel_row 0xF x 0x33 (by decide) (by decide))

theorem ldMemVx (x : Reg) : Statement (.ldMemVx x) :=
  of_row 0xF055 0xF0FF (by simp [opcodeTable, mnemonicOf]) (xSel_row 0xF x 0x55 (by decide) (by decide))

theorem ldVxMem (x : Reg) : Statement (.ldVxMem x) :=
  of_row 0xF065 0xF0FF (by simp [opcodeTable, mnemonicOf]) (xSel_row 0xF x 0x65 (by decide) (by decide))

end Sys2Proof.Laws.EncodeRow
end

