-- ==== Sys2Proof/Tests/Slice0.lean ====
section
/-! SUPPORT. The model's own tests. Decode tests take their words from the patterns of 30_encoding.md R74; execution
tests take start and result from the vectors of 95_test_vectors.md, whose id each one names; the witnesses show, for
each statement with hypotheses, concrete inputs that meet them, clause by clause at the boundary. -/

namespace Sys2Proof.Tests

open Sys2Proof Sys2Proof.Machine

-- Every kernel evaluation waits for all before it; one at a time needs one thread.
set_option Elab.async false

/-! ## Helpers -/

/-- One cycle with the word w placed at pc: its outcome and what f sees of the next state. -/
def see {α : Type} (s : State) (w : Nat) (f : State → α) : Option (CycleOutcome × α) :=
  match stepCycle (s.withFetchWord 16 w) with
  | .next r => some (r.2, f r.1)
  | .fault _ => none
  | .refused _ => none

/-- One cycle of s as it is. -/
def seeCycle {α : Type} (s : State) (f : State → α) : Option (CycleOutcome × α) :=
  match stepCycle s with
  | .next r => some (r.2, f r.1)
  | .fault _ => none
  | .refused _ => none

/-- Reset, with V0 and V1 set. -/
def two (a b : Byte) : State := (State.reset.setV 0 a).setV 1 b

/-- s with `sp` entries in use, all of them w. -/
def deep (s : State) (w : Word) (sp : Fin 17) : State := s.setStack (Vector.replicate 16 w) sp

/-- s under DATA_OOB_POLICY = Wrap and KEY_OOB_POLICY = LowNibble. -/
def lenient (s : State) : State :=
  { s with cfg := { s.cfg with dataOob := .wrap, keyOob := .lowNibble } }

/-- The lit pixels of a row. -/
def lit (y : Fin 32) (s : State) : List Nat :=
  ((List.finRange 64).filter fun x => pixelAt s.disp x y).map Fin.val

/-- The first, a middle and the last row. -/
def rows3 (s : State) : List (List Nat) := [lit 0 s, lit 15 s, lit 31 s]

/-! ## Well-formedness -/

theorem test_wellFormed_refuses_row_count_16 : WellFormed (.drw 0 0 16) = false := by decide

theorem test_wellFormed_accepts_row_count_15 : WellFormed (.drw 0 0 15) = true := by decide

/-! ## Decoding: words written out from the patterns of 30_encoding.md R74 -/

theorem test_decode_control_flow :
    decode 0x00EE = .instr .ret ∧ decode 0x1ABC = .instr (.jp 0xABC) ∧ decode 0x2DEF = .instr (.call 0xDEF) ∧
      decode 0xB123 = .instr (.jpV0 0x123) := by decide

theorem test_decode_skips :
    decode 0x3A42 = .instr (.seImm 0xA 0x42) ∧ decode 0x4B17 = .instr (.sneImm 0xB 0x17) ∧
      decode 0x5CD0 = .instr (.seReg 0xC 0xD) ∧ decode 0x9EF0 = .instr (.sneReg 0xE 0xF) := by decide

theorem test_decode_loads :
    decode 0x6A42 = .instr (.ldImm 0xA 0x42) ∧ decode 0x7BFE = .instr (.addImm 0xB 0xFE) ∧
      decode 0x8120 = .instr (.ldReg 1 2) := by decide

theorem test_decode_alu :
    decode 0x8121 = .instr (.or 1 2) ∧ decode 0x8342 = .instr (.and 3 4) ∧ decode 0x8563 = .instr (.xor 5 6) ∧
      decode 0x8784 = .instr (.addReg 7 8) ∧ decode 0x89A5 = .instr (.sub 9 0xA) ∧
      decode 0x8BC6 = .instr (.shr 0xB 0xC) ∧ decode 0x8DE7 = .instr (.subn 0xD 0xE) ∧
      decode 0x8F0E = .instr (.shl 0xF 0) := by decide

theorem test_decode_index_and_memory :
    decode 0xA123 = .instr (.ldI 0x123) ∧ decode 0xF21E = .instr (.addIVx 2) ∧ decode 0xF329 = .instr (.ldFVx 3) ∧
      decode 0xF433 = .instr (.ldBVx 4) ∧ decode 0xF555 = .instr (.ldMemVx 5) ∧
      decode 0xF665 = .instr (.ldVxMem 6) := by decide

theorem test_decode_display_and_random :
    decode 0x00E0 = .instr .cls ∧ decode 0xC7A5 = .instr (.rnd 7 0xA5) ∧ decode 0xD12F = .instr (.drw 1 2 15) := by
  decide

theorem test_decode_timers_and_input :
    decode 0xE19E = .instr (.skp 1) ∧ decode 0xE2A1 = .instr (.sknp 2) ∧ decode 0xF307 = .instr (.ldVxDt 3) ∧
      decode 0xF50A = .instr (.ldVxK 5) ∧ decode 0xF615 = .instr (.ldDtVx 6) ∧
      decode 0xF718 = .instr (.ldStVx 7) := by decide

/-- A24, A25, S6, S14, M16 and the rest of group 0. -/
theorem test_decode_unknown :
    decode 0x8008 = .unknown 0x8008 ∧ decode 0x800F = .unknown 0x800F ∧ decode 0x5011 = .unknown 0x5011 ∧
      decode 0x9011 = .unknown 0x9011 ∧ decode 0xE09F = .unknown 0xE09F ∧ decode 0xF000 = .unknown 0xF000 ∧
      decode 0x00E1 = .unknown 0x00E1 ∧ decode 0x0123 = .unknown 0x0123 := by decide

/-- Bytes are big-endian, the rest of the sequence is handed back, and one byte is no instruction. -/
theorem test_decodeBytes :
    decodeBytes [0x6A, 0x42, 0x99] = .instr (.ldImm 0xA 0x42) [0x99] ∧
      decodeBytes [0x50, 0x11] = .unknown 0x5011 [] ∧ decodeBytes [0x6A] = .truncated := by decide

theorem test_decodeTableWord : decodeTableWord 16 0xD125 = some (.drw 1 2 5) ∧ decodeTableWord 16 0xF000 = none := by
  decide

theorem test_opcodeTable_has_34_rows : opcodeTable.length = 34 := by decide

/-! ## Registers and ALU (95_test_vectors.md 2.1) -/

/-- A1. -/
theorem test_ldImm : see State.reset 0x6A42 (fun t => (t.readV 0xA, t.pc)) = some (.advanced, 0x42, 0x202) := by
  decide +kernel

/-- A2, A3. -/
theorem test_addImm :
    see ((two 1 0).setV 0xF 9) 0x70FF (fun t => (t.readV 0, t.readV 0xF)) = some (.advanced, 0, 9) ∧
      see (State.reset.setV 0xF 0xFF) 0x7F01 (fun t => t.readV 0xF) = some (.advanced, 0) := by decide +kernel

/-- A19. -/
theorem test_ldReg : see (two 0 0x42) 0x8010 (fun t => t.readV 0) = some (.advanced, 0x42) := by decide +kernel

/-- A20. -/
theorem test_or : see ((two 0 0xF0).setV 0xF 0x0F) 0x8F11 (fun t => t.readV 0xF) = some (.advanced, 0xFF) := by
  decide +kernel

/-- A21. -/
theorem test_and :
    see ((two 0xF0 0x3C).setV 0xF 7) 0x8012 (fun t => (t.readV 0, t.readV 0xF)) = some (.advanced, 0x30, 7) := by
  decide +kernel

/-- A22, A23. -/
theorem test_xor :
    see ((two 0xF0 0x3C).setV 0xF 7) 0x8013 (fun t => (t.readV 0, t.readV 0xF)) = some (.advanced, 0xCC, 7) ∧
      see (State.reset.setV 3 0xAA) 0x8333 (fun t => t.readV 3) = some (.advanced, 0) := by decide +kernel

/-- A5, A6, A7. -/
theorem test_addReg :
    see (two 0xFF 1) 0x8014 (fun t => (t.readV 0, t.readV 0xF)) = some (.advanced, 0, 1) ∧
      see (two 0xFE 1) 0x8014 (fun t => (t.readV 0, t.readV 0xF)) = some (.advanced, 0xFF, 0) ∧
      see (two 0x80 0x80) 0x8014 (fun t => (t.readV 0, t.readV 0xF)) = some (.advanced, 0, 1) := by decide +kernel

/-- A4: with x = F the sum is lost. -/
theorem test_addReg_flag_last :
    see ((two 0 0x80).setV 0xF 0x80) 0x8F14 (fun t => t.readV 0xF) = some (.advanced, 1) := by decide +kernel

/-- A8, A9. -/
theorem test_sub :
    see (two 5 5) 0x8015 (fun t => (t.readV 0, t.readV 0xF)) = some (.advanced, 0, 1) ∧
      see (two 3 5) 0x8015 (fun t => (t.readV 0, t.readV 0xF)) = some (.advanced, 0xFE, 0) := by decide +kernel

/-- A10. -/
theorem test_sub_flag_last :
    see ((two 0 5).setV 0xF 3) 0x8F15 (fun t => t.readV 0xF) = some (.advanced, 0) := by decide +kernel

/-- A11, A12, A13. -/
theorem test_subn :
    see (two 3 5) 0x8017 (fun t => (t.readV 0, t.readV 0xF)) = some (.advanced, 2, 1) ∧
      see (two 5 3) 0x8017 (fun t => (t.readV 0, t.readV 0xF)) = some (.advanced, 0xFE, 0) ∧
      see (two 7 7) 0x8017 (fun t => (t.readV 0, t.readV 0xF)) = some (.advanced, 0, 1) := by decide +kernel

/-- A14, A15. -/
theorem test_shr :
    see (two 5 0x77) 0x8016 (fun t => (t.readV 0, t.readV 1, t.readV 0xF)) = some (.advanced, 2, 0x77, 1) ∧
      see (State.reset.setV 0xF 5) 0x8F16 (fun t => t.readV 0xF) = some (.advanced, 1) := by decide +kernel

/-- A16, A18. -/
theorem test_shl :
    see (two 0x81 0) 0x801E (fun t => (t.readV 0, t.readV 0xF)) = some (.advanced, 2, 1) ∧
      see (two 0x40 0) 0x800E (fun t => (t.readV 0, t.readV 0xF)) = some (.advanced, 0x80, 0) := by decide +kernel

/-- A17. -/
theorem test_shl_flag_last :
    see (State.reset.setV 0xF 0x81) 0x8F1E (fun t => t.readV 0xF) = some (.advanced, 1) := by decide +kernel

/-- A24, S6. -/
theorem test_unknown :
    see State.reset 0x8008 (fun t => t.pc) = some (.unknownOpcode 0x8008, 0x202) ∧
      see State.reset 0x5011 (fun t => t.pc) = some (.unknownOpcode 0x5011, 0x202) := by decide +kernel

/-! ## Control flow (2.2) -/

/-- F1, F9: the last fetchable address is 0xFFE. -/
theorem test_jp :
    see State.reset 0x1ABC (fun t => t.pc) = some (.advanced, 0xABC) ∧
      see (State.reset.setPc 0xFFE) 0x1FFE (fun t => t.pc) = some (.advanced, 0xFFE) := by decide +kernel

/-- F3. -/
theorem test_call :
    see State.reset 0x2300 (fun t => (t.stack[0], t.sp, t.pc)) = some (.advanced, 0x202, 1, 0x300) := by
  decide +kernel

/-- F6. -/
theorem test_call_overflow :
    see (deep State.reset 0x202 16) 0x2300 (fun t => (t.sp, t.pc, t.fault)) =
      some (.fault .stackOverflow, 16, 0x200, some .stackOverflow) := by decide +kernel

/-- F5. -/
theorem test_ret :
    see ((deep State.reset 0x202 1).setPc 0x300) 0x00EE (fun t => (t.sp, t.pc, t.stack[0])) =
      some (.advanced, 0, 0x202, 0x202) := by decide +kernel

/-- F4. -/
theorem test_ret_underflow :
    see State.reset 0x00EE (fun t => (t.sp, t.pc, t.fault)) =
      some (.fault .stackUnderflow, 0, 0x200, some .stackUnderflow) := by decide +kernel

/-- F7, F8. -/
theorem test_jpV0 :
    see (two 0x10 0) 0xB200 (fun t => t.pc) = some (.advanced, 0x210) ∧
      see (two 0xFF 0) 0xBFFF (fun t => t.pc) = some (.advanced, 0x10FE) := by decide +kernel

/-- F8's second cycle, F10. -/
theorem test_fetch_fault :
    seeCycle (State.reset.setPc 0x10FE) (fun t => t.pc) =
        some (.fault (.addressOutOfRange .fetch 0x10FE), 0x10FE) ∧
      seeCycle (State.reset.setPc 0xFFF) (fun t => t.pc) = some (.fault (.addressOutOfRange .fetch 0xFFF), 0xFFF) := by
  decide +kernel

/-- F11. -/
theorem test_halted :
    seeCycle (State.reset.setFault (some .stackUnderflow)) (fun t => t.pc) =
      some (.fault .stackUnderflow, 0x200) := by decide +kernel

/-- F12: an odd pc is no fault. -/
theorem test_odd_pc :
    see (State.reset.setPc 0x201) 0x6042 (fun t => (t.readV 0, t.pc)) = some (.advanced, 0x42, 0x203) := by
  decide +kernel

/-! ## Skips (2.3) -/

/-- S1, S2; S13 is the skip over the end of memory. -/
theorem test_seImm :
    see (two 3 0) 0x3003 (fun t => t.pc) = some (.advanced, 0x204) ∧
      see (two 3 0) 0x3004 (fun t => t.pc) = some (.advanced, 0x202) ∧
      see (State.reset.setPc 0xFFC) 0x3000 (fun t => t.pc) = some (.advanced, 0x1000) := by decide +kernel

/-- S3, S4. -/
theorem test_sneImm :
    see (two 3 0) 0x4003 (fun t => t.pc) = some (.advanced, 0x202) ∧
      see (two 3 0) 0x4004 (fun t => t.pc) = some (.advanced, 0x204) := by decide +kernel

/-- S5, and its other case. -/
theorem test_seReg :
    see (two 3 3) 0x5010 (fun t => t.pc) = some (.advanced, 0x204) ∧
      see (two 3 4) 0x5010 (fun t => t.pc) = some (.advanced, 0x202) := by decide +kernel

/-- S7, S8. -/
theorem test_sneReg :
    see (two 3 3) 0x9010 (fun t => t.pc) = some (.advanced, 0x202) ∧
      see (two 3 4) 0x9010 (fun t => t.pc) = some (.advanced, 0x204) := by decide +kernel

/-- S9, S12. -/
theorem test_skp :
    see (setKeyState 5 true (two 0 5)) 0xE19E (fun t => t.pc) = some (.advanced, 0x204) ∧
      see (lenient (two 0x15 0)) 0xE09E (fun t => t.pc) = some (.advanced, 0x202) := by decide +kernel

/-- S11. -/
theorem test_skp_key_out_of_range :
    see (two 0x10 0) 0xE09E (fun t => (t.pc, t.fault)) =
      some (.fault (.keyIndexOutOfRange 0x10), 0x200, some (.keyIndexOutOfRange 0x10)) := by decide +kernel

/-- S10. -/
theorem test_sknp :
    see (setKeyState 5 true (two 0 5)) 0xE1A1 (fun t => t.pc) = some (.advanced, 0x202) ∧
      see (two 0x10 0) 0xE0A1 (fun t => t.pc) = some (.fault (.keyIndexOutOfRange 0x10), 0x200) := by decide +kernel

/-! ## Index register and memory (2.4) -/

/-- M1. -/
theorem test_ldI : see State.reset 0xA123 (fun t => t.i) = some (.advanced, 0x123) := by decide +kernel

/-- M2, M3. -/
theorem test_addIVx :
    see ((two 1 0).setI 0xFFFF) 0xF01E (fun t => (t.i, t.readV 0xF)) = some (.advanced, 0, 0) ∧
      see ((two 1 0).setI 0xFFF) 0xF01E (fun t => t.i) = some (.advanced, 0x1000) := by decide +kernel

/-- M5, M6. -/
theorem test_ldFVx :
    see (two 0x10 0) 0xF029 (fun t => t.i) = some (.advanced, 0x50) ∧
      see (two 0xFF 0) 0xF029 (fun t => t.i) = some (.advanced, 0x4FB) := by decide +kernel

/-- M7, M11. -/
theorem test_ldBVx :
    see ((two 0x9C 0).setI 0x300) 0xF033 (fun t => (t.byteAt 0x300, t.byteAt 0x301, t.byteAt 0x302, t.i)) =
        some (.advanced, 1, 5, 6, 0x300) ∧
      see ((lenient (two 0x7B 0)).setI 0xFFF) 0xF033 (fun t => (t.byteAt 0xFFF, t.byteAt 0, t.byteAt 1)) =
        some (.advanced, 1, 2, 3) := by decide +kernel

/-- M10: nothing is written. -/
theorem test_ldBVx_out_of_range :
    see ((two 0xFF 0).setI 0xFFE) 0xF033 (fun t => (t.byteAt 0xFFE, t.pc)) =
      some (.fault (.addressOutOfRange .data 0x1000), 0, 0x200) := by decide +kernel

/-- M12, M15. -/
theorem test_ldMemVx :
    see ((((two 1 2).setV 0xE 3).setV 0xF 4).setI 0xFF0) 0xFF55
        (fun t => (t.byteAt 0xFF0, t.byteAt 0xFF1, t.byteAt 0xFFE, t.byteAt 0xFFF)) = some (.advanced, 1, 2, 3, 4) ∧
      see ((two 0xAB 7).setI 0x300) 0xF055 (fun t => (t.byteAt 0x300, t.byteAt 0x301, t.i)) =
        some (.advanced, 0xAB, 0, 0x300) := by decide +kernel

/-- M13. -/
theorem test_ldMemVx_out_of_range :
    see ((two 1 2).setI 0xFF1) 0xFF55 (fun t => (t.byteAt 0xFF1, t.pc)) =
      some (.fault (.addressOutOfRange .data 0x1000), 0, 0x200) := by decide +kernel

/-- M14. -/
theorem test_ldVxMem :
    see ((((((two 9 9).setV 3 9).withByte 0x300 1).withByte 0x301 5).withByte 0x302 6).setI 0x300) 0xF265
        (fun t => (t.readV 0, t.readV 1, t.readV 2, t.readV 3, t.i)) = some (.advanced, 1, 5, 6, 9, 0x300) := by
  decide +kernel

/-! ## Display and random (2.5) -/

/-- G1. -/
theorem test_cls :
    see ((State.reset.setDisp (Vector.replicate 32 (Vector.replicate 64 true))).setV 0xF 3) 0x00E0
        (fun t => (rows3 t, t.readV 0xF)) = some (.advanced, [[], [], []], 3) := by decide +kernel

/-- G2. -/
theorem test_rnd (h : Config.drawByte 0 = 0xB7) :
    ∃ t, exec (.rnd 3 0x0F) State.reset = .next t ∧ t.readV 3 = 0x07 :=
  ⟨_, rfl, by show Config.drawByte 0 &&& 0x0F = 0x07; rw [h]; decide⟩

/-- G3. -/
theorem test_rnd_mask_zero : ∃ t, exec (.rnd 0 0x00) State.reset = .next t ∧ t.readV 0 = 0 :=
  ⟨_, rfl, BitVec.and_zero⟩

/-- G4: the coordinates are read from VF before the flag. -/
theorem test_drw :
    see (State.reset.setV 0xF 3) 0xDFF1 (fun t => (lit 3 t, lit 4 t, t.readV 0xF)) =
      some (.advanced, [3, 4, 5, 6], [], 0) := by decide +kernel

/-- Program P5's draw: the sprite wraps at both edges; and G7: a range past the end raises before any pixel changes. -/
theorem test_drw_wraps_and_raises :
    see ((((two 62 31).withByte 0x20E 0xF0).withByte 0x20F 0x81).setI 0x20E) 0xD012
        (fun t => (lit 31 t, lit 0 t, t.readV 0xF)) = some (.advanced, [0, 1, 62, 63], [5, 62], 0) ∧
      see (State.reset.setI 0xFFA) 0xD00F (fun t => rows3 t) =
        some (.fault (.addressOutOfRange .data 0x1000), [[], [], []]) := by decide +kernel

/-! ## Timers and input (2.6) -/

/-- T1. -/
theorem test_ldVxDt : see (State.reset.setDt 0x3C) 0xF307 (fun t => t.readV 3) = some (.advanced, 0x3C) := by
  decide +kernel

/-- T2. -/
theorem test_ldDtVx : see (two 0x3C 0) 0xF015 (fun t => t.dt) = some (.advanced, 0x3C) := by decide +kernel

/-- T3. -/
theorem test_ldStVx :
    see (State.reset.setV 4 2) 0xF418 (fun t => (t.st, soundActive t, (tickTimers (tickTimers (tickTimers t))).st)) =
      some (.advanced, 2, true, 0) := by decide +kernel

/-- T4, T8. -/
theorem test_tickTimers :
    (tickTimers (State.reset.setDt 5)).dt = 4 ∧ (tickTimers (State.reset.setDt 5)).st = 0 ∧
      (tickTimers ((State.reset.setDt 2).setFault (some .stackOverflow))).dt = 1 := by decide +kernel

/-- T5: a key held already does not end the wait. -/
theorem test_ldVxK_blocks :
    see (setKeyState 3 true State.reset) 0xF50A (fun t => (t.wait, t.pc)) =
      some (.blocked, .awaiting 5 none, 0x200) := by decide +kernel

/-- T6, T7: no edge for key 3; of the edges of 7 and 9 the first is delivered. -/
theorem test_ldVxK_delivers_first_edge :
    see (setKeyState 9 true (setKeyState 7 true (setKeyState 3 true
        ((setKeyState 3 true State.reset).setWait (.awaiting 5 none))))) 0xF50A (fun t => (t.readV 5, t.wait, t.pc)) =
      some (.advanced, 7, .idle, 0x202) := by decide +kernel

/-- T9: a load under a wait, and the wait is discarded. -/
theorem test_stale_wait_discarded :
    seeCycle (placeBytes (State.reset.setWait (.awaiting 5 none)) 0x200 [0x60, 0x01])
        (fun t => (t.readV 0, t.wait, t.pc)) = some (.advanced, 1, .idle, 0x202) := by decide +kernel

/-! ## Witnesses: the hypotheses of each statement are met -/

/-- The words of a state's memory at pc, for witnesses. -/
def at200 (s : State) (w : Nat) : State := s.withFetchWord 16 w

/-- ResetLeavesListedState: the font clause at its two ends, the zero clause at its two ends. -/
theorem witness_ResetLeavesListedState :
    (resetCore (at200 (two 1 2) 0x6042)).byteAt 0x000 = 0xF0 ∧ (resetCore State.reset).byteAt 0x04F = 0x80 ∧
      (resetCore State.reset).byteAt 0x050 = 0 ∧ (resetCore (State.reset.withByte 0xFFF 1)).byteAt 0xFFF = 0 := by
  decide +kernel

/-- ResetIdempotent: two different states with the same font and keys. -/
theorem witness_ResetIdempotent :
    (two 1 2).cfg.font = (deep State.reset 0x202 3).cfg.font ∧ (two 1 2).key = (deep State.reset 0x202 3).key ∧
      (two 1 2).v ≠ (deep State.reset 0x202 3).v := by decide +kernel

/-- LoadPlacesImageOrRejects: W13 and W14, the longest image and one byte more. -/
theorem witness_LoadPlacesImageOrRejects :
    (List.replicate 3584 (0x12 : Byte)).length ≤ 3584 ∧ 3584 < (List.replicate 3585 (0x12 : Byte)).length := by
  simp only [List.length_replicate]; omega

/-- KeyInputLatchesFirstEdge: a wait with no edge at the highest legal key; each way to keep the wait; no legal key. -/
theorem witness_KeyInputLatchesFirstEdge :
    (State.reset.setWait (.awaiting 5 none)).wait = .awaiting 5 none ∧
      (State.reset.setWait (.awaiting 5 none)).keyAt 15 = false ∧ (setKeyState 15 true State.reset).keyAt 15 = true ∧
      (∀ x, State.reset.wait ≠ .awaiting x none) ∧ 16 ≤ 16 :=
  ⟨rfl, by decide, by decide, by simp [State.reset, State.atReset], by omega⟩

/-- HostDutiesAndLiberties: operations other than reset, and the highest legal key. -/
theorem witness_HostDutiesAndLiberties :
    HostOp.stepCycle ≠ .reset ∧ (∀ k p, HostOp.setKeyState 15 true = .setKeyState k p → k < 16) :=
  ⟨by decide, fun k p h => by cases h; decide⟩

/-- FetchIsBoundChecked: the two clauses where they meet. -/
theorem witness_FetchIsBoundChecked :
    (0xFFF : Word).toNat + 1 > 0xFFF ∧ (0xFFE : Word).toNat + 1 ≤ 0xFFF := by decide

/-- FetchFaultHaltsAtPc: the lowest pc that cannot be fetched. -/
theorem witness_FetchFaultHaltsAtPc :
    (State.reset.setPc 0xFFF).fault = none ∧ 0xFFF ≤ (State.reset.setPc 0xFFF).pc.toNat := by decide

/-- UnknownOpcodeAdvances: S6 under a wait, at the last fetchable address. -/
theorem witness_UnknownOpcodeAdvances :
    let s := at200 ((State.reset.setWait (.awaiting 1 none)).setPc 0xFFE) 0x5011
    s.fault = none ∧ fetchWord s s.pc = .ok 0x5011 ∧ decode 0x5011 = .unknown 0x5011 :=
  ⟨by decide, by rfl, by decide⟩

/-- StepRunsDecodedInstruction: an instruction that completes under another's wait, one that raises, and the Fx0A of the
wait itself. -/
theorem witness_StepRunsDecodedInstruction :
    (let s := at200 ((State.reset.setWait (.awaiting 1 none)).setPc 0xFFE) 0x1ABC
     s.fault = none ∧ s.pc.toNat < 0xFFF ∧ s.wait = .awaiting 1 none ∧
       decode (wordOfBytes (s.byteAt s.pc.toNat) (s.byteAt (s.pc.toNat + 1))) = .instr (.jp 0xABC) ∧
       ∃ t, exec (.jp 0xABC) (s.setWait .idle) = .next t ∧ t.fault = none) ∧
    (let s := at200 State.reset 0x00EE
     s.fault = none ∧ s.pc.toNat < 0xFFF ∧
       decode (wordOfBytes (s.byteAt s.pc.toNat) (s.byteAt (s.pc.toNat + 1))) = .instr .ret ∧
       ∃ t, exec .ret s = .next t ∧ t.fault = some .stackUnderflow) ∧
    (let s := at200 (State.reset.setWait (.awaiting 5 none)) 0xF50A
     s.fault = none ∧ s.pc.toNat < 0xFFF ∧ s.wait = .awaiting 5 none ∧
       decode (wordOfBytes (s.byteAt s.pc.toNat) (s.byteAt (s.pc.toNat + 1))) = .instr (.ldVxK 5)) :=
  ⟨⟨by decide, by decide, rfl, by decide +kernel, _, rfl, by decide⟩,
    ⟨by decide, by decide, by decide +kernel, _, rfl, by decide⟩, by decide, by decide, rfl, by decide +kernel⟩

/-- OutcomesReportTheCycle: each of the four outcomes is returned. -/
theorem witness_OutcomesReportTheCycle :
    (∃ t, stepCycle (at200 State.reset 0x6A42) = .next (t, .advanced)) ∧
      (∃ t, stepCycle (at200 State.reset 0xF50A) = .next (t, .blocked)) ∧
      (∃ t, stepCycle (at200 State.reset 0x5011) = .next (t, .unknownOpcode 0x5011)) ∧
      (∃ t, stepCycle (at200 State.reset 0x00EE) = .next (t, .fault .stackUnderflow)) :=
  ⟨⟨_, rfl⟩, ⟨_, rfl⟩, ⟨_, rfl⟩, ⟨_, rfl⟩⟩

/-- FatalConditionIsPrecise: an instruction and a cycle that raise. -/
theorem witness_FatalConditionIsPrecise :
    (∃ t, State.reset.fault = none ∧ exec .ret State.reset = .next t ∧ t.fault = some .stackUnderflow) ∧
      (∃ t, (at200 State.reset 0x00EE).fault = none ∧ step (at200 State.reset 0x00EE) = .next t ∧
        t.fault = some .stackUnderflow) :=
  ⟨⟨_, rfl, rfl, rfl⟩, _, rfl, rfl, rfl⟩

/-- HaltedUntilReset: a halted state and an operation that is not reset. -/
theorem witness_HaltedUntilReset :
    (deep State.reset 0 16 |>.setFault (some .stackOverflow)).fault = some .stackOverflow ∧
      HostOp.tickTimers ≠ .reset ∧
      ∃ t r, hostRun .tickTimers (deep State.reset 0 16 |>.setFault (some .stackOverflow)) = .next (t, r) :=
  ⟨rfl, by decide, _, _, rfl⟩

/-- DecodeOfEncode and EncodeOfDecode: an instruction with every field at its largest value, and its word. -/
theorem witness_DecodeOfEncode_EncodeOfDecode :
    WellFormed (.drw 0xF 0xF 15) = true ∧ decode 0xDFFF = .instr (.drw 0xF 0xF 15) := by decide

/-- DecodeAgreesWithTable, and every EncodedBy clause: each row selects the word with its operands all zero and the word
with its operands all one; no row selects 0x0000. -/
theorem witness_DecodeAgreesWithTable :
    (∀ r ∈ opcodeTable, r.selects r.value = true ∧ r.selects (r.value ||| ~~~r.mask) = true) ∧
      (∀ r ∈ opcodeTable, r.selects 0x0000 = false) := by decide +kernel

/-- CallPushesReturnAddress and ReturnPopsIntoPc: the last free entry, the full stack, the last entry, the first entry,
the empty stack. -/
theorem witness_CallPushesReturnAddress_ReturnPopsIntoPc :
    (deep State.reset 0 15).sp.val < 16 ∧ (deep State.reset 0 16).sp.val = 16 ∧
      (deep State.reset 0 16).sp.val = 15 + 1 ∧
      (deep State.reset 0 1).sp.val = 0 + 1 ∧ State.reset.sp.val = 0 := by decide

/-- ReturnResumesAfterCall: a call, then a state whose next entry holds the address a nested call left there. -/
theorem witness_ReturnResumesAfterCall :
    ∃ (t u : State) (_ : State.reset.sp.val < 16), exec (.call 0x300) State.reset = .next t ∧ u.sp = t.sp ∧
      u.stack[State.reset.sp.val] = t.stack[State.reset.sp.val] ∧ u.stack[1] = 0x302 ∧ t.stack[1] = 0 :=
  ⟨_, State.setStack State.reset (((Vector.replicate 16 0).set 0 0x202).set 1 0x302) 1, by decide, rfl, rfl, by decide,
    by decide, by decide⟩

/-- JumpSetsPc and JumpOffsetAddsV0: the lowest target that cannot be fetched. -/
theorem witness_JumpSetsPc_JumpOffsetAddsV0 :
    (0xFFF : Addr12).toNat = 0xFFF ∧ ∃ t, exec (.jpV0 0xFFF) State.reset = .next t ∧ 0xFFF ≤ t.pc.toNat :=
  ⟨by decide, _, rfl, by decide⟩

/-- RegisterSkips: a word of each group with a nonzero low nibble. -/
theorem witness_RegisterSkips :
    ((0x5011 : Word) &&& 0xF000 = 0x5000 ∧ (0x5011 : Word) &&& 0x000F ≠ 0) ∧
      ((0x900F : Word) &&& 0xF000 = 0x9000 ∧ (0x900F : Word) &&& 0x000F ≠ 0) := by decide

/-- KeySkips: the highest key, an index above it under LowNibble, and the lowest bad index under Fault. -/
theorem witness_KeySkips :
    ((15 : Fin 16).val = ((two 0xF 0).readV 0).toNat % 16 ∧ ((two 0xF 0).readV 0).toNat ≤ 0xF) ∧
      ((5 : Fin 16).val = ((lenient (two 0x15 0)).readV 0).toNat % 16 ∧
        (lenient (two 0x15 0)).cfg.keyOob = .lowNibble) ∧
      (0xF < ((two 0x10 0).readV 0).toNat ∧ (two 0x10 0).cfg.keyOob = .fault) := by decide

/-- AddWritesSumThenCarry, SubWritesDifferenceThenNotBorrow, SubnWritesDifferenceThenNotBorrow and
ShiftsMoveOneBitThenFlag: a destination other than VF. -/
theorem witness_destination_not_VF : (0xE : Reg) ≠ 0xF := by decide

/-- BcdStoresThreeDigits: the last I that fits, the first that does not, and the wrap. -/
theorem witness_BcdStoresThreeDigits :
    RangeOk (State.reset.setI 0xFFD) 3 ∧ ¬ RangeOk (State.reset.setI 0xFFE) 3 ∧
      RangeOk (lenient (State.reset.setI 0xFFFF)) 3 ∧ (∀ k, k < 3 → 0x300 ≠ dataLoc (State.reset.setI 0xFFD) k) := by
  unfold RangeOk dataLoc; decide

/-- RegisterStoreWritesBlock, RegisterLoadReadsBlock: the last I that fits all sixteen registers, and the next. -/
theorem witness_RegisterStoreWritesBlock_RegisterLoadReadsBlock :
    RangeOk (State.reset.setI 0xFF0) ((15 : Reg).val + 1) ∧ ¬ RangeOk (State.reset.setI 0xFF1) ((15 : Reg).val + 1) ∧
      RangeOk (lenient (State.reset.setI 0xFF1)) ((15 : Reg).val + 1) ∧
      (∀ k, k ≤ (15 : Reg).val → 0x300 ≠ dataLoc (State.reset.setI 0xFF0) k) := by
  unfold RangeOk dataLoc; decide

/-- StoreThenLoadRestoresRegisters: the load follows the store at once, or after V0 was cleared. -/
theorem witness_StoreThenLoadRestoresRegisters :
    ∃ (t u : State), RangeOk ((two 7 8).setI 0xFFE) ((1 : Reg).val + 1) ∧
      exec (.ldMemVx 1) ((two 7 8).setI 0xFFE) = .next t ∧
      u.cfg = t.cfg ∧ u.i = t.i ∧
      (∀ k, k ≤ (1 : Reg).val → u.byteAt (dataLoc ((two 7 8).setI 0xFFE) k) =
        t.byteAt (dataLoc ((two 7 8).setI 0xFFE) k)) ∧ u.readV 0 = 0 :=
  ⟨_, State.setV (State.setMem ((two 7 8).setI 0xFFE) [(0xFFE, 7), (0xFFF, 8)]) 0 0,
    by unfold RangeOk; decide, rfl, rfl, rfl, by decide +kernel, by decide⟩

/-- StoredCodeIsFetched: Fx55 with x = 1 overwrites its own word at the end of memory. -/
theorem witness_StoredCodeIsFetched :
    let s := at200 (((two 0x12 0x00).setI 0xFFE).setPc 0xFFE) 0xF155
    RangeOk s ((1 : Reg).val + 1) ∧ (∃ t, exec (.ldMemVx 1) s = .next t) ∧
      (0xFFE : Word).toNat = dataLoc s (0 : Reg).val ∧ (0xFFE : Word).toNat + 1 = dataLoc s (1 : Reg).val :=
  ⟨by unfold RangeOk; decide, ⟨_, rfl⟩, by decide, by decide⟩

/-- DrawFlipsCoveredPixels: the last I that fits fifteen rows, the next, no rows anywhere; a pixel covered and one
not. -/
theorem witness_DrawFlipsCoveredPixels :
    RangeOk (State.reset.setI 0xFF1) 15 ∧ ¬ RangeOk (State.reset.setI 0xFF2) 15 ∧ RangeOk (State.reset.setI 0xFFFF) 0 ∧
      spriteCovers State.reset 63 31 5 0 31 ∧ ¬ spriteCovers State.reset 63 31 0 0 31 :=
  ⟨by unfold RangeOk; decide, by unfold RangeOk; decide, by unfold RangeOk; decide,
    ⟨0, 1, by decide +kernel⟩, fun ⟨_, _, h, _⟩ => absurd h (Nat.not_lt_zero _)⟩

/-- DrawTwiceRestoresDisplay: glyph 0 drawn twice on a blank display. -/
theorem witness_DrawTwiceRestoresDisplay :
    ∃ (t u : State), RangeOk (two 62 31) 5 ∧ exec (.drw 0 1 5) (two 62 31) = .next t ∧
      (t.readV 0).toNat % 64 = ((two 62 31).readV 0).toNat % 64 ∧
      (t.readV 1).toNat % 32 = ((two 62 31).readV 1).toNat % 32 ∧ exec (.drw 0 1 5) t = .next u ∧
      pixelAt (two 62 31).disp 0 0 = false ∧ (two 62 31).byteAt (dataLoc (two 62 31) 0) ≠ 0 :=
  ⟨_, _, by unfold RangeOk; decide, rfl, by decide +kernel, by decide +kernel, rfl, by decide, by decide +kernel⟩

/-- KeyWaitCases: no wait, another register's wait, one without an edge, one with the edge of the highest key. -/
theorem witness_KeyWaitCases :
    ((4 : Reg) ≠ 5 ∧ (State.reset.setWait (.awaiting 4 (some 1))).wait = .awaiting 4 (some 1)) ∧
    State.reset.wait = .idle ∧ (State.reset.setWait (.awaiting 5 none)).wait = .awaiting 5 none ∧
      (State.reset.setWait (.awaiting 5 (some 15))).wait = .awaiting 5 (some 15) := by decide

/-- KeyWaitEndsAtFirstEdge: key 3 held when the wait starts and released during it, then pressed. -/
theorem witness_KeyWaitEndsAtFirstEdge :
    let s := at200 (setKeyState 3 true State.reset) 0xF50A
    s.fault = none ∧ s.wait = .idle ∧ NextWord s 0xF50A ∧ decode 0xF50A = .instr (.ldVxK 5) ∧
      (∀ e ∈ [((3 : Fin 16), false)], e.2 = false) ∧ (keyEvents [(3, false)] s).keyAt 3 = false :=
  ⟨by decide, by decide, by rfl, by decide, by decide, by decide⟩

/-- OnlyNamedWritersWrite and OnlyDestinationRegistersChange: an instruction that completes and one that raises. -/
theorem witness_OnlyNamedWritersWrite_OnlyDestinationRegistersChange :
    (∃ t, exec (.ldMemVx 3) State.reset = .next t ∧ t.fault = none) ∧
      (∃ t, exec (.ldMemVx 3) (State.reset.setI 0xFFF) = .next t ∧
        t.fault = some (.addressOutOfRange .data 0x1000)) :=
  ⟨⟨_, rfl, rfl⟩, _, rfl, rfl⟩

/-- PcSuccessors: NEXT, SKIP, the farthest direct target, a popped value, pc0 blocked, pc0 raised. -/
theorem witness_PcSuccessors :
    (∃ t, exec (.ldImm 0 1) State.reset = .next t ∧ t.pc = 0x200 + 2) ∧
      (∃ t, exec (.seImm 0 0) State.reset = .next t ∧ t.pc = 0x200 + 4) ∧
      (∃ t, exec (.jpV0 0xFFF) (two 0xFF 0) = .next t ∧ t.pc.toNat = 0x10FE) ∧
      (∃ t, exec .ret (deep State.reset 0x444 16) = .next t ∧ t.pc = 0x444) ∧
      (∃ t, exec (.ldVxK 3) State.reset = .next t ∧ t.pc = 0x200) ∧
      (∃ t, exec .ret State.reset = .next t ∧ t.pc = 0x200) :=
  ⟨⟨_, rfl, by decide⟩, ⟨_, rfl, by decide⟩, ⟨_, rfl, by decide⟩, ⟨_, rfl, by decide⟩, ⟨_, rfl, by decide⟩,
    _, rfl, by decide⟩

/-- SoundTimerIsNeverRead: a cycle of a machine whose sound timer runs. -/
theorem witness_SoundTimerIsNeverRead :
    ∃ t o, stepCycle (at200 (State.reset.setSt 9) 0xF107) = .next (t, o) ∧ o = .advanced := ⟨_, _, rfl, rfl⟩

/-- UnusedStackEntriesAreUnseen: one entry in use, the other fifteen different. -/
theorem witness_UnusedStackEntriesAreUnseen :
    let s := at200 (deep State.reset 0x202 1) 0x00EE
    let s' := s.setStack ((Vector.replicate 16 0x777).set 0 0x202) 1
    s' = s.setStack s'.stack s.sp ∧ (∀ j, (h : j < 16) → j < s.sp.val → s'.stack[j] = s.stack[j]) ∧
      s'.stack ≠ s.stack ∧ ∃ t o, stepCycle s = .next (t, o) := by
  refine ⟨rfl, fun j hj h => ?_, by decide +kernel, _, _, rfl⟩
  have : j = 0 := Nat.lt_one_iff.1 h
  subst this; rfl

/-- StepKeepsInvariant and HostOperationsKeepInvariant: reset has the invariant and takes a step. -/
theorem witness_invariants :
    Inv State.reset ∧ (∃ t, step State.reset = .next t) ∧
      ∃ t r, hostRun (.load [0x60, 0x01]) State.reset = .next (t, r) :=
  ⟨⟨by decide, by decide, fun _ _ h => absurd h (Nat.not_lt_zero _), trivial⟩, ⟨_, rfl⟩, _, _, rfl⟩

/-- WaitStaysAtItsInstruction: a machine that waits at its Fx0A takes a step and a reset; vector T9's load leaves it
waiting at another instruction, and the next cycle leaves no fault record. -/
theorem witness_WaitStaysAtItsInstruction :
    let s := at200 (State.reset.setWait (.awaiting 5 none)) 0xF50A
    WaitAtInstr s ∧ (∃ t, step s = .next t ∧ t.fault = none) ∧ (∀ bytes, HostOp.reset ≠ .load bytes) ∧
      (∃ t r, hostRun .reset s = .next (t, r)) ∧
      ∃ t u, load [0x60, 0x01] s = .next t ∧ t.wait = .awaiting 5 none ∧ step t = .next u ∧ u.fault = none :=
  ⟨fun x l h => ⟨0xF50A, rfl, by cases h; decide⟩, ⟨_, rfl, rfl⟩, fun _ h => (nomatch h), ⟨_, _, rfl⟩,
    _, _, rfl, rfl, rfl, rfl⟩

/-- EmptyMemoryRunsToTheEnd: the last cycle at 0xFFE and the state after it. -/
theorem witness_EmptyMemoryRunsToTheEnd : 1791 < 1792 ∧ 1792 ≤ 1792 := by decide

/-- EndStatesAreStable: an idle loop, a halted machine, a machine that waits, and a halted one at its wait. -/
theorem witness_EndStatesAreStable :
    IdleLoop (at200 State.reset 0x1200) ∧ Faulted (State.reset.setFault (some .stackOverflow)) .stackOverflow ∧
      (let s := at200 (State.reset.setWait (.awaiting 5 none)) 0xF50A
       WaitingForKey s 5 ∧ s.fault = none ∧ WaitingForKey (s.setFault (some .stackUnderflow)) 5) :=
  ⟨⟨rfl, rfl, 0x1200, 0x200, rfl, by decide, by decide⟩, rfl, ⟨rfl, 0xF50A, rfl, by decide⟩, rfl, rfl, 0xF50A, rfl,
    by decide⟩

/-- R198 (c) on a halted machine: a load under a wait, a raise that undoes the discard, and Fx0A loaded back. -/
theorem test_waiting_and_faulted :
    let s := placeBytes (at200 (State.reset.setWait (.awaiting 5 none)) 0xF50A) 0x200 [0x00, 0xEE]
    ∃ t, step s = .next t ∧ t.fault = some .stackUnderflow ∧
      WaitingForKey (placeBytes t 0x200 [0xF5, 0x0A]) 5 :=
  ⟨_, rfl, rfl, rfl, 0xF50A, rfl, by decide⟩

/-- withFetchWord under a halt and a pc that cannot be fetched: the very next step runs the word. -/
theorem test_withFetchWord :
    see ((State.reset.setPc 0x10FE).setFault (some .stackOverflow)) 0x6A42 (fun t => (t.readV 0xA, t.pc)) =
      some (.advanced, 0x42, 0x202) := by decide +kernel

end Sys2Proof.Tests
end

section
/-! SUPPORT. The jumps 1nnn and Bnnn (40_control_flow.md R101, R103): how their words decode, where they put pc, and
the proofs of the two statements about them. -/

namespace Sys2Proof.Machine

/-! ## Decoding by the op field -/

/-- A row with mask 0xF000 is decoded by the word's op field alone (30_encoding.md R74). -/
theorem encodedBy_of_opField {op : Nat} {f : Word → Instr} (hop : op < 16)
    (h : ∀ w, opField w = op → decode w = .instr (f w)) : EncodedBy (BitVec.ofNat 16 (op * 4096)) 0xF000 f :=
  fun w hw => h w ((mask_op w op hop).1 hw)

theorem decode_jp {w : Word} (h : opField w = 0x1) : decode w = .instr (.jp (nnnField w)) := by
  simp only [decode, h]

theorem decode_jpV0 {w : Word} (h : opField w = 0xB) : decode w = .instr (.jpV0 (nnnField w)) := by
  simp only [decode, h]

/-! ## Widened operands (30_encoding.md R71) -/

@[simp] theorem zextAddr_toNat (nnn : Addr12) : (zextAddr nnn).toNat = nnn.toNat :=
  BitVec.toNat_setWidth_of_le (by decide)

@[simp] theorem zextByte_toNat (b : Byte) : (zextByte b).toNat = b.toNat :=
  BitVec.toNat_setWidth_of_le (by decide)

/-- The largest sum is 0xFFF + 0xFF = 0x10FE, far below 2^16, so no carry is lost. -/
theorem zextAddr_add_zextByte_toNat (nnn : Addr12) (b : Byte) :
    (zextAddr nnn + zextByte b).toNat = nnn.toNat + b.toNat := by
  have hn := nnn.isLt
  have hb := b.isLt
  have hlt : (zextAddr nnn).toNat + (zextByte b).toNat < 2 ^ 16 := by
    rw [zextAddr_toNat, zextByte_toNat]; omega
  rw [BitVec.toNat_add_of_lt hlt, zextAddr_toNat, zextByte_toNat]

/-! ## The jumps -/

theorem exec_jp (nnn : Addr12) (s : State) : exec (.jp nnn) s = .next (s.setPc (zextAddr nnn)) := rfl

theorem exec_jpV0 (nnn : Addr12) (s : State) :
    exec (.jpV0 nnn) s = .next (s.setPc (zextAddr nnn + zextByte (s.readV 0))) := rfl

/-- Only Fx0A can be Blocked (30_encoding.md R82). -/
theorem advances_of_ne_ldVxK {i : Instr} (h : ∀ x, i ≠ .ldVxK x) (t : State) : Advances i t := by
  unfold Advances completion
  split
  · next x _ _ _ => exact absurd rfl (h x)
  · rfl

/-- Settles O21: pc becomes the widened nnn, and the fetch from 0xFFF fails its bound check. -/
theorem jumpSetsPc : Obligations.JumpSetsPc := by
  refine ⟨encodedBy_of_opField (op := 0x1) (by decide) fun _ => decode_jp, fun nnn s => ?_⟩
  have hpc : (s.setPc (zextAddr nnn)).pc.toNat = nnn.toNat := zextAddr_toNat nnn
  refine ⟨_, exec_jp nnn s, advances_of_ne_ldVxK (by simp) _, hpc, fun hnnn => ?_, frame_setPc s _⟩
  have hfff := hpc.trans hnnn
  rw [fetchWord_error hfff.ge, hfff]

/-- Settles O22: the sum of nnn and V0 fits pc, so it is exact. -/
theorem jumpOffsetAddsV0 : Obligations.JumpOffsetAddsV0 := by
  refine ⟨encodedBy_of_opField (op := 0xB) (by decide) fun _ => decode_jpV0, fun nnn s => ?_⟩
  exact ⟨_, exec_jpV0 nnn s, advances_of_ne_ldVxK (by simp) _, zextAddr_add_zextByte_toNat nnn _,
    fetchWord_error, frame_setPc s _⟩

end Sys2Proof.Machine
end

section
/-! SUPPORT. The register and immediate skips 3xnn, 4xnn, 5xy0 and 9xy0 (41_conditional_skip.md R110 to R114): how their
words decode, where they put pc, and the proofs of the two statements about them. -/

namespace Sys2Proof.Machine

/-! ## Decoding by the op field and the low nibble -/

/-- A row with mask 0xF00F is decoded by the word's op and n fields alone (30_encoding.md R74). -/
theorem encodedBy_of_opField_nField {op n : Nat} {f : Word → Instr} (hop : op < 16) (hn : n < 16)
    (h : ∀ w, opField w = op → nField w = n → decode w = .instr (f w)) :
    EncodedBy (BitVec.ofNat 16 (op * 4096 + n)) 0xF00F f := by
  intro w hw
  obtain ⟨hwop, hwn⟩ := (mask_op_n w op n hop hn).1 hw
  exact h w hwop hwn

/-- Mask 0x000F: n alone. -/
theorem and_0x000F_eq_zero_iff (w : Word) : w &&& 0x000F = 0 ↔ nField w = 0 := by
  rw [← BitVec.toNat_inj, BitVec.toNat_and]
  exact Eq.congr_left (Nat.and_two_pow_sub_one_eq_mod w.toNat 4)

theorem decode_seImm {w : Word} (h : opField w = 0x3) : decode w = .instr (.seImm (xField w) (nnField w)) := by
  simp only [decode, h]

theorem decode_sneImm {w : Word} (h : opField w = 0x4) : decode w = .instr (.sneImm (xField w) (nnField w)) := by
  simp only [decode, h]

theorem decode_group5 {w : Word} (h : opField w = 0x5) :
    decode w = if nField w = 0 then .instr (.seReg (xField w) (yField w)) else .unknown w := by
  simp only [decode, h]

theorem decode_group9 {w : Word} (h : opField w = 0x9) :
    decode w = if nField w = 0 then .instr (.sneReg (xField w) (yField w)) else .unknown w := by
  simp only [decode, h]

/-- Groups 5 and 9 have no instruction with a nonzero low nibble (R112, R113). -/
theorem decode_group5_group9_unknown {w : Word} (hop : opField w = 0x5 ∨ opField w = 0x9) (hn : nField w ≠ 0) :
    decode w = .unknown w := by
  rcases hop with hop | hop
  · rw [decode_group5 hop, if_neg hn]
  · rw [decode_group9 hop, if_neg hn]

/-! ## The skips -/

theorem skipIf_beq_pc (s : State) (a b : Byte) : (s.skipIf (a == b)).pc = if a = b then s.pc + 4 else s.pc + 2 := by
  simp only [State.skipIf_pc, beq_iff_eq]

theorem skipIf_bne_pc (s : State) (a b : Byte) : (s.skipIf (a != b)).pc = if a = b then s.pc + 2 else s.pc + 4 := by
  simp only [State.skipIf_pc, bne_iff_ne, ite_not]

theorem exec_seImm (x : Reg) (nn : Byte) (s : State) :
    exec (.seImm x nn) s = .next (s.skipIf (s.readV x == nn)) := rfl

theorem exec_sneImm (x : Reg) (nn : Byte) (s : State) :
    exec (.sneImm x nn) s = .next (s.skipIf (s.readV x != nn)) := rfl

theorem exec_seReg (x y : Reg) (s : State) :
    exec (.seReg x y) s = .next (s.skipIf (s.readV x == s.readV y)) := rfl

theorem exec_sneReg (x y : Reg) (s : State) :
    exec (.sneReg x y) s = .next (s.skipIf (s.readV x != s.readV y)) := rfl

/-- Settles O26: both are `skipIf` on a comparison of Vx with nn, and `skipIf` writes pc alone. -/
theorem immediateSkips : Obligations.ImmediateSkips := by
  refine ⟨encodedBy_of_opField (op := 0x3) (by decide) fun _ => decode_seImm,
    encodedBy_of_opField (op := 0x4) (by decide) fun _ => decode_sneImm, fun x nn s => ⟨?_, ?_⟩⟩
  · exact ⟨_, exec_seImm x nn s, advances_of_ne_ldVxK (by simp) _, skipIf_beq_pc s _ _, frame_skipIf s _⟩
  · exact ⟨_, exec_sneImm x nn s, advances_of_ne_ldVxK (by simp) _, skipIf_bne_pc s _ _, frame_skipIf s _⟩

/-- Settles O27: the low nibble selects the instruction or Unknown, and both are `skipIf` on a comparison of Vx with
Vy. -/
theorem registerSkips : Obligations.RegisterSkips := by
  refine ⟨?_, ?_, fun w hop hn => ?_, fun x y s => ⟨?_, ?_⟩⟩
  · exact encodedBy_of_opField_nField (op := 0x5) (n := 0) (by decide) (by decide) fun _ hop hn => by
      rw [decode_group5 hop, if_pos hn]
  · exact encodedBy_of_opField_nField (op := 0x9) (n := 0) (by decide) (by decide) fun _ hop hn => by
      rw [decode_group9 hop, if_pos hn]
  · exact decode_group5_group9_unknown (hop.imp (mask_op w 0x5 (by decide)).1 (mask_op w 0x9 (by decide)).1)
      (mt (and_0x000F_eq_zero_iff w).2 hn)
  · exact ⟨_, exec_seReg x y s, advances_of_ne_ldVxK (by simp) _, skipIf_beq_pc s _ _, frame_skipIf s _⟩
  · exact ⟨_, exec_sneReg x y s, advances_of_ne_ldVxK (by simp) _, skipIf_bne_pc s _ _, frame_skipIf s _⟩

end Sys2Proof.Machine
end

section
/-! SUPPORT. The loads and the arithmetic 6xnn, 7xnn, 8xy0, 8xy4, 8xy5 and 8xy7 (42_register_alu.md R120 to R122, R126,
R127, R129): how their words decode, what a write of Vx and a write of Vx with a flag leave in the registers, and the
proofs of the four statements about them. -/

namespace Sys2Proof.Machine

/-! ## Decoding -/

theorem decode_ldImm {w : Word} (h : opField w = 0x6) : decode w = .instr (.ldImm (xField w) (nnField w)) := by
  simp only [decode, h]

theorem decode_addImm {w : Word} (h : opField w = 0x7) : decode w = .instr (.addImm (xField w) (nnField w)) := by
  simp only [decode, h]

theorem decode_group8 {w : Word} (h : opField w = 0x8) : decode w = decodeAlu w := by
  simp only [decode, h]

/-- A row of group 8 is one selector of `decodeAlu` (30_encoding.md R73). -/
theorem encodedBy_of_decodeAlu {n : Nat} {f : Word → Instr} (hn : n < 16)
    (h : ∀ w, nField w = n → decodeAlu w = .instr (f w)) : EncodedBy (BitVec.ofNat 16 (0x8 * 4096 + n)) 0xF00F f :=
  encodedBy_of_opField_nField (by decide) hn fun w hop hwn => (decode_group8 hop).trans (h w hwn)

/-! ## A write of Vx, then NEXT -/

theorem readV_setV_same (s : State) (x : Reg) (b : Byte) : (s.setV x b).readV x = b := by
  rw [State.readV_setV, if_pos rfl]

theorem regsExcept_setV (s : State) (x : Reg) (b : Byte) : RegsExcept [x] s (s.setV x b) := by
  intro r hr
  rw [State.readV_setV, if_neg (List.ne_of_not_mem_cons hr)]

/-- What an instruction does that ends as one write of Vx before NEXT. -/
theorem writesVx_of_exec {i : Instr} {s : State} {x : Reg} {b : Byte} (h : exec i s = .next (s.setV x b).toNext)
    (hi : ∀ z, i ≠ .ldVxK z) :
    ∃ t, exec i s = .next t ∧ Advances i t ∧ t.readV x = b ∧ RegsExcept [x] s t ∧ t.pc = s.pc + 2 ∧
      SameExcept [.v, .pc] s t :=
  ⟨_, h, advances_of_ne_ldVxK hi _, readV_setV_same s x b, regsExcept_setV s x b, rfl,
    (frame_setV s x b).trans (frame_toNext _)⟩

/-! ## A write of Vx and then VF, then NEXT (10_state.md R22) -/

theorem readV_writeFlagged_dest (s : State) {x : Reg} (b : Byte) (c : Bool) (hx : x ≠ regVF) :
    (s.writeFlagged x b c).readV x = b := by
  rw [State.readV_writeFlagged, if_neg hx, if_pos rfl]

/-- The flag is written last, so VF holds it for x = 0xF too. -/
theorem readV_writeFlagged_VF (s : State) (x : Reg) (b : Byte) (c : Bool) :
    (s.writeFlagged x b c).readV regVF = flagByte c := by
  rw [State.readV_writeFlagged, if_pos rfl]

theorem regsExcept_writeFlagged (s : State) (x : Reg) (b : Byte) (c : Bool) :
    RegsExcept [x, regVF] s (s.writeFlagged x b c) := by
  intro r hr
  simp only [List.mem_cons, List.not_mem_nil, or_false, not_or] at hr
  obtain ⟨hx, hvf⟩ := hr
  rw [State.readV_writeFlagged, if_neg hvf, if_neg hx]

/-- What an instruction does that ends as a write of Vx and then VF before NEXT. -/
theorem writesVxThenVF_of_exec {i : Instr} {s : State} {x : Reg} {b : Byte} {c : Bool}
    (h : exec i s = .next (s.writeFlagged x b c).toNext) (hi : ∀ z, i ≠ .ldVxK z) :
    ∃ t, exec i s = .next t ∧ Advances i t ∧ (x ≠ regVF → (t.readV x).toNat = b.toNat) ∧
      t.readV regVF = flagByte c ∧ RegsExcept [x, regVF] s t ∧ t.pc = s.pc + 2 ∧ SameExcept [.v, .pc] s t :=
  ⟨_, h, advances_of_ne_ldVxK hi _, fun hx => congrArg BitVec.toNat (readV_writeFlagged_dest s b c hx),
    readV_writeFlagged_VF s x b c, regsExcept_writeFlagged s x b c, rfl,
    (frame_writeFlagged s x b c).trans (frame_toNext _)⟩

/-! ## Results and flags as numbers (10_state.md R26) -/

theorem byte_add_toNat (a b : Byte) : (a + b).toNat = (a.toNat + b.toNat) % 256 := BitVec.toNat_add a b

theorem byte_sub_toNat (a b : Byte) : (a - b).toNat = (a.toNat + 256 - b.toNat) % 256 := by
  have hb := b.isLt
  rw [BitVec.toNat_sub]
  congr 1
  omega

theorem flagByte_carryOut (a b : Byte) : flagByte (carryOut a b) = if a.toNat + b.toNat > 255 then 1 else 0 := by
  simp only [flagByte, carryOut, decide_eq_true_eq]

theorem flagByte_noBorrow (a b : Byte) : flagByte (noBorrow a b) = if b.toNat > a.toNat then 0 else 1 := by
  simp only [flagByte, noBorrow, Bool.not_eq_true', decide_eq_false_iff_not, ite_not]

/-! ## The instructions -/

theorem exec_ldImm (x : Reg) (nn : Byte) (s : State) : exec (.ldImm x nn) s = .next (s.setV x nn).toNext := rfl

theorem exec_addImm (x : Reg) (nn : Byte) (s : State) :
    exec (.addImm x nn) s = .next (s.setV x (s.readV x + nn)).toNext := rfl

theorem exec_ldReg (x y : Reg) (s : State) : exec (.ldReg x y) s = .next (s.setV x (s.readV y)).toNext := rfl

theorem exec_addReg (x y : Reg) (s : State) : exec (.addReg x y) s =
    .next (s.writeFlagged x (s.readV x + s.readV y) (carryOut (s.readV x) (s.readV y))).toNext := rfl

theorem exec_sub (x y : Reg) (s : State) : exec (.sub x y) s =
    .next (s.writeFlagged x (s.readV x - s.readV y) (noBorrow (s.readV x) (s.readV y))).toNext := rfl

theorem exec_subn (x y : Reg) (s : State) : exec (.subn x y) s =
    .next (s.writeFlagged x (s.readV y - s.readV x) (noBorrow (s.readV y) (s.readV x))).toNext := rfl

/-- Settles O29: each is one write of Vx before NEXT, and the byte sum is the sum modulo 256. -/
theorem loadsAndImmediateAdd : Obligations.LoadsAndImmediateAdd := by
  refine ⟨encodedBy_of_opField (op := 0x6) (by decide) fun _ => decode_ldImm,
    encodedBy_of_opField (op := 0x7) (by decide) fun _ => decode_addImm,
    encodedBy_of_decodeAlu (n := 0x0) (by decide) fun w hn => by simp only [decodeAlu, hn],
    fun x y nn s => ⟨?_, ?_, ?_⟩⟩
  · exact writesVx_of_exec (exec_ldImm x nn s) (by simp)
  · obtain ⟨t, hexec, hadv, hx, hrest⟩ := writesVx_of_exec (exec_addImm x nn s) (by simp)
    exact ⟨t, hexec, hadv, by rw [hx, byte_add_toNat], hrest⟩
  · exact writesVx_of_exec (exec_ldReg x y s) (by simp)

/-- Settles O31: a flagged write of the sum whose flag is the carry. -/
theorem addWritesSumThenCarry : Obligations.AddWritesSumThenCarry := by
  refine ⟨encodedBy_of_decodeAlu (n := 0x4) (by decide) fun w hn => by simp only [decodeAlu, hn], fun x y s => ?_⟩
  have h := writesVxThenVF_of_exec (exec_addReg x y s) (by simp)
  rwa [byte_add_toNat, flagByte_carryOut] at h

/-- Settles O32: a flagged write of Vx - Vy whose flag is the not-borrow. -/
theorem subWritesDifferenceThenNotBorrow : Obligations.SubWritesDifferenceThenNotBorrow := by
  refine ⟨encodedBy_of_decodeAlu (n := 0x5) (by decide) fun w hn => by simp only [decodeAlu, hn], fun x y s => ?_⟩
  have h := writesVxThenVF_of_exec (exec_sub x y s) (by simp)
  rwa [byte_sub_toNat, flagByte_noBorrow] at h

/-- Settles O33: the same flagged write with the operands exchanged. -/
theorem subnWritesDifferenceThenNotBorrow : Obligations.SubnWritesDifferenceThenNotBorrow := by
  refine ⟨encodedBy_of_decodeAlu (n := 0x7) (by decide) fun w hn => by simp only [decodeAlu, hn], fun x y s => ?_⟩
  have h := writesVxThenVF_of_exec (exec_subn x y s) (by simp)
  rwa [byte_sub_toNat, flagByte_noBorrow] at h

end Sys2Proof.Machine
end

section
/-! SUPPORT. The index register instructions Annn and Fx1E (43_index_and_memory.md R140, R141): how their words decode,
what a write of I before NEXT leaves, and the proof of the statement about them. -/

namespace Sys2Proof.Machine

/-! ## Decoding by the op field and the selector byte -/

/-- A row with mask 0xF0FF is decoded by the word's op field and selector byte alone (30_encoding.md R74). -/
theorem encodedBy_of_opField_selField {op sel : Nat} {f : Word → Instr} (hop : op < 16) (hsel : sel < 256)
    (h : ∀ w, opField w = op → selField w = sel → decode w = .instr (f w)) :
    EncodedBy (BitVec.ofNat 16 (op * 4096 + sel)) 0xF0FF f := by
  intro w hw
  obtain ⟨hwop, hwsel⟩ := (mask_op_sel w op sel hop hsel).1 hw
  exact h w hwop hwsel

theorem decode_ldI {w : Word} (h : opField w = 0xA) : decode w = .instr (.ldI (nnnField w)) := by
  simp only [decode, h]

theorem decode_groupF {w : Word} (h : opField w = 0xF) : decode w = decodeMisc w := by
  simp only [decode, h]

/-- A row of group 0xF is one selector of `decodeMisc` (30_encoding.md R73). -/
theorem encodedBy_of_decodeMisc {sel : Nat} {f : Word → Instr} (hsel : sel < 256)
    (h : ∀ w, selField w = sel → decodeMisc w = .instr (f w)) :
    EncodedBy (BitVec.ofNat 16 (0xF * 4096 + sel)) 0xF0FF f :=
  encodedBy_of_opField_selField (by decide) hsel fun w hop hwsel => (decode_groupF hop).trans (h w hwsel)

/-! ## A write of I, then NEXT -/

/-- What an instruction does that ends as one write of I before NEXT. -/
theorem writesI_of_exec {i : Instr} {s : State} {w : Word} (h : exec i s = .next (s.setI w).toNext)
    (hi : ∀ z, i ≠ .ldVxK z) :
    ∃ t, exec i s = .next t ∧ Advances i t ∧ t.i.toNat = w.toNat ∧ t.pc = s.pc + 2 ∧ SameExcept [.i, .pc] s t :=
  ⟨_, h, advances_of_ne_ldVxK hi _, rfl, rfl, (frame_setI s w).trans (frame_toNext _)⟩

/-! ## The instructions -/

/-- The sum wraps at the width of I, not at the end of memory (R141). -/
theorem add_zextByte_toNat (w : Word) (b : Byte) : (w + zextByte b).toNat = (w.toNat + b.toNat) % 65536 := by
  rw [BitVec.toNat_add, zextByte_toNat]

theorem exec_ldI (nnn : Addr12) (s : State) : exec (.ldI nnn) s = .next (s.setI (zextAddr nnn)).toNext := rfl

theorem exec_addIVx (x : Reg) (s : State) :
    exec (.addIVx x) s = .next (s.setI (s.i + zextByte (s.readV x))).toNext := rfl

/-- Settles O35: each is one write of I before NEXT, of the widened nnn or of the 16-bit sum. -/
theorem indexLoadAndAdd : Obligations.IndexLoadAndAdd := by
  refine ⟨encodedBy_of_opField (op := 0xA) (by decide) fun _ => decode_ldI,
    encodedBy_of_decodeMisc (sel := 0x1E) (by decide) fun w hsel => by simp only [decodeMisc, hsel],
    fun nnn x s => ⟨?_, ?_⟩⟩
  · have h := writesI_of_exec (exec_ldI nnn s) (by simp)
    rwa [zextAddr_toNat] at h
  · have h := writesI_of_exec (exec_addIVx x s) (by simp)
    rwa [add_zextByte_toNat] at h

end Sys2Proof.Machine
end

section
/-! SUPPORT. The display and sound observations of the host (44_display_and_random.md R153, 45_timers_and_input.md R168)
and the clear 00E0 (R150), with the proofs of the two statements about them. -/

namespace Sys2Proof.Machine

/-! ## The observations -/

theorem hostRun_snapshotDisplay (s : State) : hostRun .snapshotDisplay s = .next (s, .display s.disp) := rfl

theorem hostRun_observeSound (s : State) : hostRun .observeSound s = .next (s, .sound (soundActive s) s.st) := rfl

theorem soundActive_iff (s : State) : soundActive s = true ↔ s.st.toNat ≠ 0 :=
  bne_iff_ne.trans BitVec.toNat_ne_iff_ne.symm

/-- Settles O6: both answer with the state they were given, and the reported flag is the test of ST. -/
theorem observationsChangeNothing : Obligations.ObservationsChangeNothing := fun s =>
  ⟨hostRun_snapshotDisplay s, soundActive s, hostRun_observeSound s, soundActive_iff s⟩

/-! ## The clear -/

/-- A row with mask 0xFFFF is met by its own word alone (30_encoding.md R74). -/
theorem encodedBy_of_decode {value : Word} {i : Instr} (h : decode value = .instr i) :
    EncodedBy value 0xFFFF fun _ => i := by
  intro w hw
  rw [mask_all] at hw
  rw [hw, h]

theorem decode_0x00E0 : decode 0x00E0 = .instr .cls := by decide

theorem exec_cls (s : State) : exec .cls s = .next (s.setDisp blankDisplay).toNext := rfl

/-- Settles O42: one write of the blank display before NEXT. -/
theorem clearBlanksDisplay : Obligations.ClearBlanksDisplay := by
  refine ⟨encodedBy_of_decode decode_0x00E0, fun s => ?_⟩
  exact ⟨_, exec_cls s, advances_of_ne_ldVxK (by simp) _, pixelAt_blankDisplay, rfl,
    (frame_setDisp s blankDisplay).trans (frame_toNext _)⟩

end Sys2Proof.Machine
end

section
/-! SUPPORT. The timer moves Fx07, Fx15 and Fx18 (45_timers_and_input.md R162, R164, R165): what each leaves, and the
proof of the statement about them. -/

namespace Sys2Proof.Machine

theorem exec_ldVxDt (x : Reg) (s : State) : exec (.ldVxDt x) s = .next (s.setV x s.dt).toNext := rfl

theorem exec_ldDtVx (x : Reg) (s : State) : exec (.ldDtVx x) s = .next (s.setDt (s.readV x)).toNext := rfl

theorem exec_ldStVx (x : Reg) (s : State) : exec (.ldStVx x) s = .next (s.setSt (s.readV x)).toNext := rfl

/-- Settles O46: each is one write, of Vx, DT or ST, before NEXT, and the tone observation is the test of the ST just
written. -/
theorem timerReadsAndWrites : Obligations.TimerReadsAndWrites := by
  refine ⟨encodedBy_of_decodeMisc (sel := 0x07) (by decide) fun w hsel => by simp only [decodeMisc, hsel],
    encodedBy_of_decodeMisc (sel := 0x15) (by decide) fun w hsel => by simp only [decodeMisc, hsel],
    encodedBy_of_decodeMisc (sel := 0x18) (by decide) fun w hsel => by simp only [decodeMisc, hsel],
    fun x s => ⟨?_, ?_, ?_⟩⟩
  · exact writesVx_of_exec (exec_ldVxDt x s) (by simp)
  · exact ⟨_, exec_ldDtVx x s, advances_of_ne_ldVxK (by simp) _, rfl, rfl,
      (frame_setDt s (s.readV x)).trans (frame_toNext _)⟩
  · exact ⟨_, exec_ldStVx x s, advances_of_ne_ldVxK (by simp) _, rfl, soundActive_iff _, rfl,
      (frame_setSt s (s.readV x)).trans (frame_toNext _)⟩

end Sys2Proof.Machine
end

section
/-! SUPPORT. The encoding (30_encoding.md R70 to R76): the fields of an encoded word, the word made of a word's own
fields, decode and encode as inverses of each other, and the opcode table, with the proofs of the five statements about
them. -/

namespace Sys2Proof.Machine

/-! ## Decoding by group: the groups not met before -/

theorem decode_call {w : Word} (h : opField w = 0x2) : decode w = .instr (.call (nnnField w)) := by
  simp only [decode, h]

theorem decode_rnd {w : Word} (h : opField w = 0xC) : decode w = .instr (.rnd (xField w) (nnField w)) := by
  simp only [decode, h]

theorem decode_drw {w : Word} (h : opField w = 0xD) :
    decode w = .instr (.drw (xField w) (yField w) (nField w)) := by
  simp only [decode, h]

theorem decode_groupE {w : Word} (h : opField w = 0xE) : decode w = decodeKey w := by
  simp only [decode, h]

/-- A row of group 0xE is one selector of `decodeKey` (30_encoding.md R73). -/
theorem encodedBy_of_decodeKey {sel : Nat} {f : Word → Instr} (hsel : sel < 256)
    (h : ∀ w, selField w = sel → decodeKey w = .instr (f w)) :
    EncodedBy (BitVec.ofNat 16 (0xE * 4096 + sel)) 0xF0FF f :=
  encodedBy_of_opField_selField (by decide) hsel fun w hop hwsel => (decode_groupE hop).trans (h w hwsel)

theorem decode_0x00EE : decode 0x00EE = .instr .ret := by decide

/-! ## The fields of an encoded word -/

section Fields

variable {op n sel : Nat} (x y : Reg) (nn : Byte) (nnn : Addr12)

@[simp] theorem opField_nnnWord (hop : op < 16) : opField (nnnWord op nnn) = op := by
  have := nnn.isLt
  rw [opField, nnnWord_toNat op nnn hop]; omega

@[simp] theorem nnnField_nnnWord (hop : op < 16) : nnnField (nnnWord op nnn) = nnn := by
  have := nnn.isLt
  rw [nnnField, nnnWord_toNat op nnn hop, ← BitVec.toNat_inj, BitVec.toNat_ofNat]; omega

@[simp] theorem opField_xnnWord (hop : op < 16) : opField (xnnWord op x nn) = op := by
  have := nn.isLt; have := x.isLt
  rw [opField, xnnWord_toNat op x nn hop]; omega

@[simp] theorem xField_xnnWord (hop : op < 16) : xField (xnnWord op x nn) = x := by
  have := nn.isLt; have := x.isLt
  rw [xField, xnnWord_toNat op x nn hop, Fin.ext_iff, Fin.val_ofNat]; omega

@[simp] theorem nnField_xnnWord (hop : op < 16) : nnField (xnnWord op x nn) = nn := by
  have := nn.isLt
  rw [nnField, xnnWord_toNat op x nn hop, ← BitVec.toNat_inj, BitVec.toNat_ofNat]; omega

@[simp] theorem opField_xynWord (hop : op < 16) (hn : n < 16) : opField (xynWord op x y n) = op := by
  have := x.isLt; have := y.isLt
  rw [opField, xynWord_toNat op x y n hop hn]; omega

@[simp] theorem xField_xynWord (hop : op < 16) (hn : n < 16) : xField (xynWord op x y n) = x := by
  have := x.isLt; have := y.isLt
  rw [xField, xynWord_toNat op x y n hop hn, Fin.ext_iff, Fin.val_ofNat]; omega

@[simp] theorem yField_xynWord (hop : op < 16) (hn : n < 16) : yField (xynWord op x y n) = y := by
  have := x.isLt; have := y.isLt
  rw [yField, xynWord_toNat op x y n hop hn, Fin.ext_iff, Fin.val_ofNat]; omega

@[simp] theorem nField_xynWord (hop : op < 16) (hn : n < 16) : nField (xynWord op x y n) = n := by
  rw [nField, xynWord_toNat op x y n hop hn]; omega

@[simp] theorem opField_xSelWord (hop : op < 16) (hsel : sel < 256) : opField (xSelWord op x sel) = op := by
  have := x.isLt
  rw [opField, xSelWord_toNat op x sel hop hsel]; omega

@[simp] theorem xField_xSelWord (hop : op < 16) (hsel : sel < 256) : xField (xSelWord op x sel) = x := by
  have := x.isLt
  rw [xField, xSelWord_toNat op x sel hop hsel, Fin.ext_iff, Fin.val_ofNat]; omega

@[simp] theorem selField_xSelWord (hop : op < 16) (hsel : sel < 256) : selField (xSelWord op x sel) = sel := by
  rw [selField, xSelWord_toNat op x sel hop hsel]; omega

end Fields

/-! ## Decode after encode -/

/-- The two fixed words are decoded as they stand; every other format gives its fields back. -/
theorem decode_encode {i : Instr} (hi : WellFormed i = true) : decode (encode i) = .instr i := by
  cases i with
  | cls => exact decode_0x00E0
  | ret => exact decode_0x00EE
  | jp | call | ldI | jpV0 | seImm | sneImm | ldImm | addImm | rnd => simp [encode, decode]
  | seReg | sneReg => simp [encode, decode]
  | ldReg | or | and | xor | addReg | sub | shr | subn | shl => simp [encode, decode_group8, decodeAlu]
  | drw x y n =>
    have hn : n < 16 := Nat.lt_succ_of_le (of_decide_eq_true hi)
    simp [encode, decode_drw, hn]
  | skp | sknp => simp [encode, decode_groupE, decodeKey]
  | ldVxDt | ldVxK | ldDtVx | ldStVx | addIVx | ldFVx | ldBVx | ldMemVx | ldVxMem =>
    simp [encode, decode_groupF, decodeMisc]

/-- Settles O17: the encoder's fields are the decoder's, and the two bytes join to the encoded word. -/
theorem decodeOfEncode : Obligations.DecodeOfEncode := fun i hi => by
  refine ⟨decode_encode hi, ?_⟩
  simp only [encodeBytes, decodeBytes, wordOfBytes_hiByte_loByte, decode_encode hi]

/-! ## Encode after decode -/

section OwnFields

variable {w : Word} {op n sel : Nat}

theorem nnnWord_ownFields (hop : opField w = op) : nnnWord op (nnnField w) = w := by
  subst hop
  rw [← BitVec.toNat_inj, nnnWord_toNat _ _ (opField_lt w), nnnField, BitVec.toNat_ofNat]
  unfold opField; omega

theorem xnnWord_ownFields (hop : opField w = op) : xnnWord op (xField w) (nnField w) = w := by
  subst hop
  rw [← BitVec.toNat_inj, xnnWord_toNat _ _ _ (opField_lt w), nnField, xField, BitVec.toNat_ofNat, Fin.val_ofNat]
  unfold opField; omega

theorem nField_lt (w : Word) : nField w < 16 := Nat.mod_lt _ (by decide)

theorem selField_lt (w : Word) : selField w < 256 := Nat.mod_lt _ (by decide)

theorem xynWord_ownFields (hop : opField w = op) (hn : nField w = n) :
    xynWord op (xField w) (yField w) n = w := by
  subst hop hn
  rw [← BitVec.toNat_inj, xynWord_toNat _ _ _ _ (opField_lt w) (nField_lt w), xField, yField, Fin.val_ofNat,
    Fin.val_ofNat]
  unfold opField nField; omega

theorem xSelWord_ownFields (hop : opField w = op) (hsel : selField w = sel) : xSelWord op (xField w) sel = w := by
  subst hop hsel
  rw [← BitVec.toNat_inj, xSelWord_toNat _ _ _ (opField_lt w) (selField_lt w), xField, Fin.val_ofNat]
  unfold opField selField; omega

end OwnFields

/-- The instruction is well formed and its word is w. -/
def StandsFor (i : Instr) (w : Word) : Prop := WellFormed i = true ∧ encode i = w

theorem standsFor_of_decodeAlu {w : Word} {i : Instr} (hop : opField w = 0x8) (h : decodeAlu w = .instr i) :
    StandsFor i w := by
  unfold decodeAlu at h
  split at h <;> cases h <;> exact ⟨rfl, xynWord_ownFields hop ‹_›⟩

theorem standsFor_of_decodeKey {w : Word} {i : Instr} (hop : opField w = 0xE) (h : decodeKey w = .instr i) :
    StandsFor i w := by
  unfold decodeKey at h
  split at h <;> cases h <;> exact ⟨rfl, xSelWord_ownFields hop ‹_›⟩

theorem standsFor_of_decodeMisc {w : Word} {i : Instr} (hop : opField w = 0xF) (h : decodeMisc w = .instr i) :
    StandsFor i w := by
  unfold decodeMisc at h
  split at h <;> cases h <;> exact ⟨rfl, xSelWord_ownFields hop ‹_›⟩

theorem standsFor_of_decode {w : Word} {i : Instr} (h : decode w = .instr i) : StandsFor i w := by
  unfold decode at h
  split at h
  case h_1 =>
    split at h
    · next hw => cases h; exact ⟨rfl, hw.symm⟩
    · split at h
      · next hw => cases h; exact ⟨rfl, hw.symm⟩
      · cases h
  case h_2 hop | h_3 hop | h_11 hop | h_12 hop => cases h; exact ⟨rfl, nnnWord_ownFields hop⟩
  case h_4 hop | h_5 hop | h_7 hop | h_8 hop | h_13 hop => cases h; exact ⟨rfl, xnnWord_ownFields hop⟩
  case h_6 hop | h_10 hop => split at h <;> cases h; exact ⟨rfl, xynWord_ownFields hop ‹_›⟩
  case h_9 hop => exact standsFor_of_decodeAlu hop h
  case h_14 hop =>
    cases h
    exact ⟨decide_eq_true (Nat.le_of_lt_succ (nField_lt w)), xynWord_ownFields hop rfl⟩
  case h_15 hop => exact standsFor_of_decodeKey hop h
  case h_16 hop => exact standsFor_of_decodeMisc hop h
  case h_17 => cases h

/-- Settles O18: in each group the word is made of its own fields. -/
theorem encodeOfDecode : Obligations.EncodeOfDecode := fun _ _ => standsFor_of_decode

/-! ## Unknown words -/

/-- Unknown names the word that was decoded: no branch of any group answers it of another word (R73, R76). -/
theorem eq_of_decode_unknown {w v : Word} (h : decode w = .unknown v) : v = w := by
  unfold decode decodeAlu decodeKey decodeMisc at h
  grind

/-! ## The opcode table (R74, R75) -/

/-- A word the row selects decodes to an instruction of the row's mnemonic. -/
def RowDecodes (r : Row) : Prop := ∀ w, r.selects w = true → ∃ i, decode w = .instr i ∧ mnemonicOf i = r.mnemonic

/-- The instruction bears the mnemonic. -/
def DecodesTo (d : Decoded) (m : String) : Prop := ∃ i, d = .instr i ∧ mnemonicOf i = m

section Rows

variable {m : String}

theorem rowDecodes_of_word (value : Word) (h : DecodesTo (decode value) m) : RowDecodes ⟨m, value, 0xFFFF⟩ := by
  intro w hw
  obtain rfl : w = value := (mask_all w).symm.trans (beq_iff_eq.1 hw)
  exact h

theorem rowDecodes_of_op (op : Nat) (h : ∀ w, opField w = op → DecodesTo (decode w) m) (hop : op < 16 := by decide) :
    RowDecodes ⟨m, BitVec.ofNat 16 (op * 4096), 0xF000⟩ :=
  fun w hw => h w ((mask_op w op hop).1 (beq_iff_eq.1 hw))

theorem rowDecodes_of_op_n (op n : Nat) (h : ∀ w, opField w = op ∧ nField w = n → DecodesTo (decode w) m)
    (hop : op < 16 := by decide) (hn : n < 16 := by decide) :
    RowDecodes ⟨m, BitVec.ofNat 16 (op * 4096 + n), 0xF00F⟩ :=
  fun w hw => h w ((mask_op_n w op n hop hn).1 (beq_iff_eq.1 hw))

theorem rowDecodes_of_op_sel (op sel : Nat) (h : ∀ w, opField w = op ∧ selField w = sel → DecodesTo (decode w) m)
    (hop : op < 16 := by decide) (hsel : sel < 256 := by decide) :
    RowDecodes ⟨m, BitVec.ofNat 16 (op * 4096 + sel), 0xF0FF⟩ :=
  fun w hw => h w ((mask_op_sel w op sel hop hsel).1 (beq_iff_eq.1 hw))

end Rows

/-- Every row's fixed fields lead the two-level decode to the instruction the row names. -/
theorem rowDecodes_opcodeTable : ∀ r ∈ opcodeTable, RowDecodes r := by
  simp only [opcodeTable, List.forall_mem_append, List.forall_mem_cons, List.not_mem_nil, false_imp_iff,
    implies_true, and_true, and_assoc]
  refine ⟨rowDecodes_of_word 0x00E0 ⟨_, decode_0x00E0, rfl⟩, rowDecodes_of_word 0x00EE ⟨_, decode_0x00EE, rfl⟩,
    rowDecodes_of_op 0x1 ?_, rowDecodes_of_op 0x2 ?_, rowDecodes_of_op 0x3 ?_, rowDecodes_of_op 0x4 ?_,
    rowDecodes_of_op_n 0x5 0x0 ?_, rowDecodes_of_op 0x6 ?_, rowDecodes_of_op 0x7 ?_,
    rowDecodes_of_op_n 0x8 0x0 ?_, rowDecodes_of_op_n 0x8 0x1 ?_, rowDecodes_of_op_n 0x8 0x2 ?_,
    rowDecodes_of_op_n 0x8 0x3 ?_, rowDecodes_of_op_n 0x8 0x4 ?_, rowDecodes_of_op_n 0x8 0x5 ?_,
    rowDecodes_of_op_n 0x8 0x6 ?_, rowDecodes_of_op_n 0x8 0x7 ?_, rowDecodes_of_op_n 0x8 0xE ?_,
    rowDecodes_of_op_n 0x9 0x0 ?_, rowDecodes_of_op 0xA ?_, rowDecodes_of_op 0xB ?_, rowDecodes_of_op 0xC ?_,
    rowDecodes_of_op 0xD ?_, rowDecodes_of_op_sel 0xE 0x9E ?_, rowDecodes_of_op_sel 0xE 0xA1 ?_,
    rowDecodes_of_op_sel 0xF 0x07 ?_, rowDecodes_of_op_sel 0xF 0x0A ?_, rowDecodes_of_op_sel 0xF 0x15 ?_,
    rowDecodes_of_op_sel 0xF 0x18 ?_, rowDecodes_of_op_sel 0xF 0x1E ?_, rowDecodes_of_op_sel 0xF 0x29 ?_,
    rowDecodes_of_op_sel 0xF 0x33 ?_, rowDecodes_of_op_sel 0xF 0x55 ?_, rowDecodes_of_op_sel 0xF 0x65 ?_⟩
  all_goals
    intro w hw
    simp only [DecodesTo, decode, decodeAlu, decodeKey, decodeMisc, hw, if_true]
    exact ⟨_, rfl, rfl⟩

theorem nodup_mnemonics : (opcodeTable.map Row.mnemonic).Nodup := by decide

theorem encodeRow (i : Instr) : Laws.EncodeRow.Statement i := by
  cases i with
  | cls => exact Laws.EncodeRow.cls
  | ret => exact Laws.EncodeRow.ret
  | jp nnn => exact Laws.EncodeRow.jp nnn
  | call nnn => exact Laws.EncodeRow.call nnn
  | seImm x nn => exact Laws.EncodeRow.seImm x nn
  | sneImm x nn => exact Laws.EncodeRow.sneImm x nn
  | seReg x y => exact Laws.EncodeRow.seReg x y
  | ldImm x nn => exact Laws.EncodeRow.ldImm x nn
  | addImm x nn => exact Laws.EncodeRow.addImm x nn
  | ldReg x y => exact Laws.EncodeRow.ldReg x y
  | or x y => exact Laws.EncodeRow.or x y
  | and x y => exact Laws.EncodeRow.and x y
  | xor x y => exact Laws.EncodeRow.xor x y
  | addReg x y => exact Laws.EncodeRow.addReg x y
  | sub x y => exact Laws.EncodeRow.sub x y
  | shr x y => exact Laws.EncodeRow.shr x y
  | subn x y => exact Laws.EncodeRow.subn x y
  | shl x y => exact Laws.EncodeRow.shl x y
  | sneReg x y => exact Laws.EncodeRow.sneReg x y
  | ldI nnn => exact Laws.EncodeRow.ldI nnn
  | jpV0 nnn => exact Laws.EncodeRow.jpV0 nnn
  | rnd x nn => exact Laws.EncodeRow.rnd x nn
  | drw x y n => exact Laws.EncodeRow.drw x y n
  | skp x => exact Laws.EncodeRow.skp x
  | sknp x => exact Laws.EncodeRow.sknp x
  | ldVxDt x => exact Laws.EncodeRow.ldVxDt x
  | ldVxK x => exact Laws.EncodeRow.ldVxK x
  | ldDtVx x => exact Laws.EncodeRow.ldDtVx x
  | ldStVx x => exact Laws.EncodeRow.ldStVx x
  | addIVx x => exact Laws.EncodeRow.addIVx x
  | ldFVx x => exact Laws.EncodeRow.ldFVx x
  | ldBVx x => exact Laws.EncodeRow.ldBVx x
  | ldMemVx x => exact Laws.EncodeRow.ldMemVx x
  | ldVxMem x => exact Laws.EncodeRow.ldVxMem x

/-- A word that decodes to an instruction is selected by that instruction's row. -/
theorem selected_of_decode {w : Word} {i : Instr} (h : decode w = .instr i) :
    ∃ r ∈ opcodeTable, r.selects w = true := by
  obtain ⟨hwf, rfl⟩ := standsFor_of_decode h
  obtain ⟨r, hr, -, hsel⟩ := encodeRow i hwf
  exact ⟨r, hr, hsel⟩

/-- Settles O19: each row decodes to its mnemonic, which no other row bears; and an instruction's word is selected by
the instruction's row. -/
theorem decodeAgreesWithTable : Obligations.DecodeAgreesWithTable := by
  refine ⟨fun w r hr => rowDecodes_opcodeTable r hr w, fun w hw => ?_, fun w r r' hr hr' hs hs' => ?_⟩
  · cases hd : decode w with
    | instr i =>
      obtain ⟨r, hr, hs⟩ := selected_of_decode hd
      exact absurd hs (by simp [hw r hr])
    | unknown v => rw [eq_of_decode_unknown hd]
  · obtain ⟨i, hi, hm⟩ := rowDecodes_opcodeTable r hr w hs
    obtain ⟨j, hj, hm'⟩ := rowDecodes_opcodeTable r' hr' w hs'
    obtain rfl : i = j := Decoded.instr.inj (hi.symm.trans hj)
    exact List.inj_on_of_nodup_map nodup_mnemonics hr hr' (hm.symm.trans hm')

/-! ## The fields as bits (R70, R71), and words written out -/

theorem toNat_extractLsb' (w : Word) (start len : Nat) :
    (w.extractLsb' start len).toNat = w.toNat / 2 ^ start % 2 ^ len := by
  rw [BitVec.extractLsb'_toNat, Nat.shiftRight_eq_div_pow]

/-- Settles O16: a field is a quotient and a remainder of the word's number, as an extract of bits is. -/
theorem fieldsAreTheirBits : Obligations.FieldsAreTheirBits := by
  intro w
  have hw := w.isLt
  simp only [← BitVec.toNat_inj, toNat_extractLsb', opField, xField, yField, nField, nnField, selField, nnnField,
    Fin.val_ofNat, BitVec.toNat_ofNat]
  omega

/-- Settles O20: each of the thirteen words is decoded by evaluation. -/
theorem decodesWrittenOutWords : Obligations.DecodesWrittenOutWords := by
  unfold Obligations.DecodesWrittenOutWords
  decide

end Sys2Proof.Machine
end

section
/-! SUPPORT. What the remaining instructions do, said once: one equation for an instruction that cannot raise, and one
for completing and one for raising (60_exceptions.md R180, R182) for an instruction that can. -/

namespace Sys2Proof.Machine

theorem exec_det {i : Instr} {s t u : State} (h : exec i s = .next t) (h' : exec i s = .next u) : t = u :=
  Host.Outcome.next.inj (h.symm.trans h')

/-! ## Instructions that cannot raise -/

theorem exec_or (x y : Reg) (s : State) :
    exec (.or x y) s = .next (s.setV x (s.readV x ||| s.readV y)).toNext := rfl

theorem exec_and (x y : Reg) (s : State) :
    exec (.and x y) s = .next (s.setV x (s.readV x &&& s.readV y)).toNext := rfl

theorem exec_xor (x y : Reg) (s : State) :
    exec (.xor x y) s = .next (s.setV x (s.readV x ^^^ s.readV y)).toNext := rfl

theorem exec_shr (x y : Reg) (s : State) : exec (.shr x y) s =
    .next (s.writeFlagged x (s.readV x >>> 1) (outRight (s.readV x))).toNext := rfl

theorem exec_shl (x y : Reg) (s : State) : exec (.shl x y) s =
    .next (s.writeFlagged x (s.readV x <<< 1) (outLeft (s.readV x))).toNext := rfl

theorem exec_ldFVx (x : Reg) (s : State) :
    exec (.ldFVx x) s = .next (s.setI (glyphAddr (s.readV x))).toNext := rfl

theorem exec_rnd (x : Reg) (nn : Byte) (s : State) :
    exec (.rnd x nn) s = .next (s.setV x (Config.drawByte s.draws &&& nn)).countDraw.toNext := rfl

/-! ## The key wait (45_timers_and_input.md R163) -/

theorem exec_ldVxK_start {x : Reg} {s : State} (h : ∀ l, s.wait ≠ .awaiting x l) :
    exec (.ldVxK x) s = .next (s.setWait (.awaiting x none)) := by
  have hw : waitFor x s.wait = none := by
    unfold waitFor
    split
    · rfl
    · next y l hy => exact if_neg fun hyx => h l (by rw [hy, hyx])
  simp only [exec, execLdVxK, hw]

theorem exec_ldVxK_blocked {x : Reg} {s : State} (h : s.wait = .awaiting x none) :
    exec (.ldVxK x) s = .next s := by
  simp only [exec, execLdVxK, h, waitFor, if_true]

theorem exec_ldVxK_deliver {x : Reg} {k : Fin 16} {s : State} (h : s.wait = .awaiting x (some k)) :
    exec (.ldVxK x) s = .next ((s.setV x (keyByte k)).setWait .idle).toNext := by
  simp only [exec, execLdVxK, h, waitFor, if_true]

/-- A key wait starts, stays blocked, or delivers its latched key. -/
theorem exec_ldVxK_cases {x : Reg} {s t : State} (h : exec (.ldVxK x) s = .next t) :
    ((∀ l, s.wait ≠ .awaiting x l) ∧ t = s.setWait (.awaiting x none)) ∨
    (s.wait = .awaiting x none ∧ t = s) ∨
    (∃ k, s.wait = .awaiting x (some k) ∧ t = ((s.setV x (keyByte k)).setWait .idle).toNext) := by
  by_cases hx : ∃ l, s.wait = .awaiting x l
  · obtain ⟨_ | k, hl⟩ := hx
    · exact .inr (.inl ⟨hl, exec_det h (exec_ldVxK_blocked hl)⟩)
    · exact .inr (.inr ⟨k, hl, exec_det h (exec_ldVxK_deliver hl)⟩)
  · have hx' : ∀ l, s.wait ≠ .awaiting x l := fun l hl => hx ⟨l, hl⟩
    exact .inl ⟨hx', exec_det h (exec_ldVxK_start hx')⟩

/-! ## Call and return (40_control_flow.md R100, R102) -/

theorem exec_call_ok (nnn : Addr12) {s : State} (h : s.sp.val < 16) :
    exec (.call nnn) s = .next
      ((s.setStack (s.stack.set s.sp.val (s.pc + 2)) ⟨s.sp.val + 1, by omega⟩).setPc (zextAddr nnn)) := by
  simp only [exec, execCall, push_ok h]; rfl

theorem exec_call_overflow (nnn : Addr12) {s : State} (h : s.sp.val = 16) :
    exec (.call nnn) s = .next (raise .stackOverflow s) := by
  simp only [exec, execCall, push_overflow h]; rfl

theorem exec_call_cases {nnn : Addr12} {s t : State} (h : exec (.call nnn) s = .next t) :
    (∃ hsp : s.sp.val < 16,
      t = (s.setStack (s.stack.set s.sp.val (s.pc + 2)) ⟨s.sp.val + 1, by omega⟩).setPc (zextAddr nnn)) ∨
    (s.sp.val = 16 ∧ t = raise .stackOverflow s) := by
  by_cases hsp : s.sp.val < 16
  · exact .inl ⟨hsp, exec_det h (exec_call_ok nnn hsp)⟩
  · have hsp' : s.sp.val = 16 := by omega
    exact .inr ⟨hsp', exec_det h (exec_call_overflow nnn hsp')⟩

theorem exec_ret_ok {s : State} {n : Nat} (hn : n < 16) (h : s.sp.val = n + 1) :
    exec .ret s = .next ((s.setStack s.stack ⟨n, by omega⟩).setPc s.stack[n]) := by
  have h1 : s.sp.val - 1 = n := by omega
  simp only [exec, execRet, pop_ok (show s.sp.val ≠ 0 by omega), h1]; rfl

theorem exec_ret_underflow {s : State} (h : s.sp.val = 0) :
    exec .ret s = .next (raise .stackUnderflow s) := by
  simp only [exec, execRet, pop_underflow h]; rfl

theorem exec_ret_cases {s t : State} (h : exec .ret s = .next t) :
    (∃ n, ∃ hn : n < 16, s.sp.val = n + 1 ∧ t = (s.setStack s.stack ⟨n, by omega⟩).setPc s.stack[n]) ∨
    (s.sp.val = 0 ∧ t = raise .stackUnderflow s) := by
  rcases Nat.eq_zero_or_eq_succ_pred s.sp.val with hsp | hsp
  · exact .inr ⟨hsp, exec_det h (exec_ret_underflow hsp)⟩
  · have hn : s.sp.val.pred < 16 := by omega
    exact .inl ⟨_, hn, hsp, exec_det h (exec_ret_ok hn hsp)⟩

/-! ## The key skips (45_timers_and_input.md R160, R161) -/

/-- Vx names a key: it is one, or KEY_OOB_POLICY takes its low nibble. -/
def KeyOk (s : State) (x : Reg) : Prop := s.cfg.keyOob = .lowNibble ∨ (s.readV x).toNat < 16

/-- The key Vx names. -/
def keyOf (s : State) (x : Reg) : Fin 16 := Fin.ofNat 16 (s.readV x).toNat

theorem not_keyOk_iff {s : State} {x : Reg} :
    ¬ KeyOk s x ↔ s.cfg.keyOob = .fault ∧ 16 ≤ (s.readV x).toNat := by
  unfold KeyOk
  cases s.cfg.keyOob <;> simp

theorem exec_skp_ok {x : Reg} {s : State} (h : KeyOk s x) :
    exec (.skp x) s = .next (s.skipIf (s.keyAt (keyOf s x))) := by
  simp only [exec, execSkp, keyIndex_ok h]; rfl

theorem exec_sknp_ok {x : Reg} {s : State} (h : KeyOk s x) :
    exec (.sknp x) s = .next (s.skipIf (!s.keyAt (keyOf s x))) := by
  simp only [exec, execSknp, keyIndex_ok h]; rfl

theorem exec_skp_error {x : Reg} {s : State} (h : ¬ KeyOk s x) :
    exec (.skp x) s = .next (raise (.keyIndexOutOfRange (s.readV x)) s) := by
  obtain ⟨hc, hk⟩ := not_keyOk_iff.1 h
  simp only [exec, execSkp, keyIndex_error hc hk]; rfl

theorem exec_sknp_error {x : Reg} {s : State} (h : ¬ KeyOk s x) :
    exec (.sknp x) s = .next (raise (.keyIndexOutOfRange (s.readV x)) s) := by
  obtain ⟨hc, hk⟩ := not_keyOk_iff.1 h
  simp only [exec, execSknp, keyIndex_error hc hk]; rfl

/-- Both key skips are `skipIf` on some test, or raise. -/
theorem exec_keySkip_cases {i : Instr} {x : Reg} {s t : State} (hi : i = .skp x ∨ i = .sknp x)
    (h : exec i s = .next t) :
    (∃ c, t = s.skipIf c) ∨ (¬ KeyOk s x ∧ t = raise (.keyIndexOutOfRange (s.readV x)) s) := by
  by_cases hk : KeyOk s x
  · left
    rcases hi with rfl | rfl
    · exact ⟨_, exec_det h (exec_skp_ok hk)⟩
    · exact ⟨_, exec_det h (exec_sknp_ok hk)⟩
  · right
    rcases hi with rfl | rfl
    · exact ⟨hk, exec_det h (exec_skp_error hk)⟩
    · exact ⟨hk, exec_det h (exec_sknp_error hk)⟩

/-! ## Block transfers through I (20_memory.md R52, R53, R67) -/

/-- What a range that passes 0xFFF records: its lowest bad address. -/
def rangeFault (s : State) : FatalKind := .addressOutOfRange .data (max s.i.toNat 0x1000)

/-- The count bytes at I. -/
def dataBytes (s : State) (count : Nat) : List Byte := (List.range count).map fun k => s.byteAt (dataLoc s k)

@[simp] theorem dataBytes_length (s : State) (count : Nat) : (dataBytes s count).length = count := by
  simp [dataBytes]

theorem dataBytes_getElem (s : State) (count k : Nat) (h : k < (dataBytes s count).length) :
    (dataBytes s count)[k] = s.byteAt (dataLoc s k) := by
  simp [dataBytes]

/-- m holds the bytes at I and is the memory of s elsewhere, in canonical form if that of s is. -/
structure StoredAtI (s : State) (bytes : List Byte) (m : Memory) : Prop where
  landed : ∀ k, (hk : k < bytes.length) → readMem s.cfg m (dataLoc s k) = bytes[k]
  elsewhere : ∀ a, (∀ k, k < bytes.length → a ≠ dataLoc s k) → readMem s.cfg m a = s.byteAt a
  wf : Memory.wf s.cfg s.mem → Memory.wf s.cfg m

theorem not_rangeOk_iff {s : State} {count : Nat} :
    ¬ RangeOk s count ↔ s.cfg.dataOob = .fault ∧ count ≠ 0 ∧ 0x1000 < s.i.toNat + count := by
  unfold RangeOk
  cases s.cfg.dataOob <;> simp

theorem readBlock_base_ok {s : State} {count : Nat} (h : RangeOk s count) :
    readBlock s s.base count = .ok (dataBytes s count) := readBlock_ok h

theorem readBlock_base_error {s : State} {count : Nat} (h : ¬ RangeOk s count) :
    readBlock s s.base count = .error (rangeFault s) := by
  obtain ⟨hc, h0, hlt⟩ := not_rangeOk_iff.1 h
  exact readBlock_error hc h0 hlt

theorem writeBlock_base_ok {s : State} {bytes : List Byte} (hl : bytes.length ≤ 4096)
    (h : RangeOk s bytes.length) :
    ∃ m, writeBlock s s.base bytes = .ok (s.setMem m) ∧ StoredAtI s bytes m := by
  obtain ⟨m, hm, hin, hout, hwf⟩ := writeBlock_ok hl h
  exact ⟨m, hm, hin, hout, hwf⟩

theorem writeBlock_base_error {s : State} {bytes : List Byte} (h : ¬ RangeOk s bytes.length) :
    writeBlock s s.base bytes = .error (rangeFault s) := by
  obtain ⟨hc, h0, hlt⟩ := not_rangeOk_iff.1 h
  exact writeBlock_error hc h0 hlt

theorem exec_ldBVx_ok {x : Reg} {s : State} (h : RangeOk s 3) :
    ∃ m, exec (.ldBVx x) s = .next (s.setMem m).toNext ∧ StoredAtI s (decimalDigits (s.readV x)) m := by
  obtain ⟨m, hm, hst⟩ := writeBlock_base_ok (bytes := decimalDigits (s.readV x)) (by simp) h
  exact ⟨m, by simp only [exec, execLdBVx, hm]; rfl, hst⟩

theorem exec_ldBVx_error {x : Reg} {s : State} (h : ¬ RangeOk s 3) :
    exec (.ldBVx x) s = .next (raise (rangeFault s) s) := by
  simp only [exec, execLdBVx, writeBlock_base_error (bytes := decimalDigits (s.readV x)) h]; rfl

theorem exec_ldMemVx_ok {x : Reg} {s : State} (h : RangeOk s (x.val + 1)) :
    ∃ m, exec (.ldMemVx x) s = .next (s.setMem m).toNext ∧ StoredAtI s (regBlock s x) m := by
  obtain ⟨m, hm, hst⟩ := writeBlock_base_ok (bytes := regBlock s x) (by simp; omega) (by simpa using h)
  exact ⟨m, by simp only [exec, execLdMemVx, hm]; rfl, hst⟩

theorem exec_ldMemVx_error {x : Reg} {s : State} (h : ¬ RangeOk s (x.val + 1)) :
    exec (.ldMemVx x) s = .next (raise (rangeFault s) s) := by
  simp only [exec, execLdMemVx, writeBlock_base_error (bytes := regBlock s x) (by simpa using h)]; rfl

theorem exec_ldVxMem_ok {x : Reg} {s : State} (h : RangeOk s (x.val + 1)) :
    exec (.ldVxMem x) s = .next (s.setRegs (loadRegs s.v 0 (dataBytes s (x.val + 1)))).toNext := by
  simp only [exec, execLdVxMem, readBlock_base_ok h]; rfl

theorem exec_ldVxMem_error {x : Reg} {s : State} (h : ¬ RangeOk s (x.val + 1)) :
    exec (.ldVxMem x) s = .next (raise (rangeFault s) s) := by
  simp only [exec, execLdVxMem, readBlock_base_error h]; rfl

/-- The canvas after the n-row sprite at I is drawn at (Vx, Vy). -/
def drawn (s : State) (x y : Reg) (n : Nat) : Canvas :=
  plotRows s.cfg.spriteOrder (s.readV x).toNat (s.readV y).toNat (dataBytes s n) ⟨s.disp, false⟩

theorem exec_drw_ok {x y : Reg} {n : Nat} {s : State} (h : RangeOk s n) :
    exec (.drw x y n) s = .next
      ((s.setDisp (drawn s x y n).disp).setV regVF (flagByte (drawn s x y n).collision)).toNext := by
  simp only [exec, execDrw, readBlock_base_ok h]; rfl

theorem exec_drw_error {x y : Reg} {n : Nat} {s : State} (h : ¬ RangeOk s n) :
    exec (.drw x y n) s = .next (raise (rangeFault s) s) := by
  simp only [exec, execDrw, readBlock_base_error h]; rfl

/-- Fx33 and Fx55 replace memory before NEXT, or raise. -/
theorem exec_store_cases {i : Instr} {s t : State} (hi : (∃ x, i = .ldBVx x) ∨ ∃ x, i = .ldMemVx x)
    (h : exec i s = .next t) :
    (∃ m, (Memory.wf s.cfg s.mem → Memory.wf s.cfg m) ∧ t = (s.setMem m).toNext) ∨
    (∃ count, count ≤ 16 ∧ ¬ RangeOk s count ∧ t = raise (rangeFault s) s) := by
  rcases hi with ⟨x, rfl⟩ | ⟨x, rfl⟩
  · by_cases hr : RangeOk s 3
    · obtain ⟨m, hm, hst⟩ := exec_ldBVx_ok (x := x) hr
      exact .inl ⟨m, hst.wf, exec_det h hm⟩
    · exact .inr ⟨3, by decide, hr, exec_det h (exec_ldBVx_error hr)⟩
  · by_cases hr : RangeOk s (x.val + 1)
    · obtain ⟨m, hm, hst⟩ := exec_ldMemVx_ok hr
      exact .inl ⟨m, hst.wf, exec_det h hm⟩
    · exact .inr ⟨_, x.isLt, hr, exec_det h (exec_ldMemVx_error hr)⟩

theorem exec_ldVxMem_cases {x : Reg} {s t : State} (h : exec (.ldVxMem x) s = .next t) :
    (RangeOk s (x.val + 1) ∧ t = (s.setRegs (loadRegs s.v 0 (dataBytes s (x.val + 1)))).toNext) ∨
    (¬ RangeOk s (x.val + 1) ∧ t = raise (rangeFault s) s) := by
  by_cases hr : RangeOk s (x.val + 1)
  · exact .inl ⟨hr, exec_det h (exec_ldVxMem_ok hr)⟩
  · exact .inr ⟨hr, exec_det h (exec_ldVxMem_error hr)⟩

theorem exec_drw_cases {x y : Reg} {n : Nat} {s t : State} (h : exec (.drw x y n) s = .next t) :
    (RangeOk s n ∧
      t = ((s.setDisp (drawn s x y n).disp).setV regVF (flagByte (drawn s x y n).collision)).toNext) ∨
    (¬ RangeOk s n ∧ t = raise (rangeFault s) s) := by
  by_cases hr : RangeOk s n
  · exact .inl ⟨hr, exec_det h (exec_drw_ok hr)⟩
  · exact .inr ⟨hr, exec_det h (exec_drw_error hr)⟩

end Sys2Proof.Machine
end

section
/-! SUPPORT. Rules about all instructions (10_state.md R20 to R36, 60_exceptions.md R180, R182): what each may write,
which registers it changes, where it leaves pc, and what a fatal condition leaves, with the proofs of three statements
about them. The arms of each case split are grouped by the last write before the new pc. -/

namespace Sys2Proof.Machine

/-! ## Frames -/

/-- Moving the stack pointer alone. -/
theorem frame_setSp (s : State) (n : Fin 17) : SameExcept [.sp] s (s.setStack s.stack n) := by
  intro p hp
  by_cases hst : p = .stack
  · subst hst; rfl
  · exact frame_setStack s s.stack n p (by simp_all)

/-- Settles O49: the frame of each instruction is that of its writes in a row, and a fatal condition writes the record
alone. -/
theorem onlyNamedWritersWrite : Obligations.OnlyNamedWritersWrite := by
  intro i s t h
  cases i with
  | cls => cases h; exact (frame_setDisp _ _).trans (frame_toNext _)
  | jp | jpV0 => cases h; exact frame_setPc _ _
  | seImm | sneImm | seReg | sneReg => cases h; exact frame_skipIf _ _
  | ldImm | addImm | ldReg | or | and | xor | ldVxDt => cases h; exact (frame_setV _ _ _).trans (frame_toNext _)
  | addReg | sub | shr | subn | shl => cases h; exact (frame_writeFlagged _ _ _ _).trans (frame_toNext _)
  | ldI | addIVx | ldFVx => cases h; exact (frame_setI _ _).trans (frame_toNext _)
  | rnd => cases h; exact ((frame_setV _ _ _).trans (frame_countDraw _)).trans (frame_toNext _)
  | ldDtVx => cases h; exact (frame_setDt _ _).trans (frame_toNext _)
  | ldStVx => cases h; exact (frame_setSt _ _).trans (frame_toNext _)
  | ldVxK x =>
    rcases exec_ldVxK_cases h with ⟨-, rfl⟩ | ⟨-, rfl⟩ | ⟨k, -, rfl⟩
    · exact (frame_setWait _ _).mono (by simp [mayWrite])
    · exact SameExcept.refl _ _
    · exact ((frame_setV _ _ _).trans (frame_setWait _ _)).trans (frame_toNext _)
  | call nnn =>
    rcases exec_call_cases h with ⟨hsp, rfl⟩ | ⟨-, rfl⟩
    · exact ((frame_setStack _ _ _).trans (frame_setPc _ _)).mono (by simp [mayWrite])
    · exact (frame_raise _ _).mono (by simp [mayWrite])
  | ret =>
    rcases exec_ret_cases h with ⟨n, hn, -, rfl⟩ | ⟨-, rfl⟩
    · exact ((frame_setSp _ _).trans (frame_setPc _ _)).mono (by simp [mayWrite])
    · exact (frame_raise _ _).mono (by simp [mayWrite])
  | skp x | sknp x =>
    rcases exec_keySkip_cases (x := x) (by simp) h with ⟨c, rfl⟩ | ⟨-, rfl⟩
    · exact (frame_skipIf _ _).mono (by simp [mayWrite])
    · exact (frame_raise _ _).mono (by simp [mayWrite])
  | ldBVx x | ldMemVx x =>
    rcases exec_store_cases (by simp) h with ⟨m, -, rfl⟩ | ⟨-, -, -, rfl⟩
    · exact ((frame_setMem _ _).trans (frame_toNext _)).mono (by simp [mayWrite])
    · exact (frame_raise _ _).mono (by simp [mayWrite])
  | ldVxMem x =>
    rcases exec_ldVxMem_cases h with ⟨-, rfl⟩ | ⟨-, rfl⟩
    · exact ((frame_setRegs _ _).trans (frame_toNext _)).mono (by simp [mayWrite])
    · exact (frame_raise _ _).mono (by simp [mayWrite])
  | drw x y n =>
    rcases exec_drw_cases h with ⟨-, rfl⟩ | ⟨-, rfl⟩
    · exact (((frame_setDisp _ _).trans (frame_setV _ _ _)).trans (frame_toNext _)).mono (by simp [mayWrite])
    · exact (frame_raise _ _).mono (by simp [mayWrite])

/-- A piece of state outside the list is the same after the instruction. -/
theorem same_of_exec {i : Instr} {s t : State} (h : exec i s = .next t) {p : Part} (hp : p ∉ mayWrite i) : p.Same s t :=
  onlyNamedWritersWrite i s t h p hp

/-- An instruction that leaves the stack pointer alone leaves the entries alone. -/
theorem stack_eq_of_exec {i : Instr} {s t : State} (h : exec i s = .next t) (hi : .sp ∉ mayWrite i) :
    t.stack = s.stack := by
  refine same_of_exec h (p := .stack) ?_
  cases i with
  | call => simp [mayWrite] at hi
  | _ => simp [mayWrite]

/-! ## Registers -/

theorem RegsExcept.mono {l l' : List Reg} {s t : State} (h : RegsExcept l s t) (hl : ∀ r ∈ l, r ∈ l') :
    RegsExcept l' s t := fun r hr => h r fun hm => hr (hl r hm)

theorem regsExcept_raise (l : List Reg) (k : FatalKind) (s : State) : RegsExcept l s (raise k s) := fun _ _ => rfl

/-- Fx65 leaves the registers above Vx. -/
theorem readV_setRegs_loadRegs (s : State) (count : Nat) (r : Reg) :
    (s.setRegs (loadRegs s.v 0 (dataBytes s count))).readV r =
      if r.val < count then s.byteAt (dataLoc s r.val) else s.readV r := by
  rw [State.readV_setRegs, loadRegs_getElem _ _ _ _ r.isLt]
  by_cases hr : r.val < count
  · rw [dif_pos (by simpa using hr), if_pos hr]
    simp [dataBytes_getElem]
  · rw [dif_neg (by simpa using hr), if_neg hr]; rfl

/-- Settles O50: an instruction with no destination does not write the registers at all; for the others the write before
the new pc is to its destinations. -/
theorem onlyDestinationRegistersChange : Obligations.OnlyDestinationRegistersChange := by
  intro i s t h
  cases i with
  | ldImm | addImm | ldReg | or | and | xor | ldVxDt | rnd => cases h; exact regsExcept_setV _ _ _
  | addReg | sub | shr | subn | shl => cases h; exact regsExcept_writeFlagged _ _ _ _
  | ldVxK x =>
    rcases exec_ldVxK_cases h with ⟨-, rfl⟩ | ⟨-, rfl⟩ | ⟨k, -, rfl⟩
    · exact fun _ _ => rfl
    · exact fun _ _ => rfl
    · exact regsExcept_setV _ _ _
  | drw x y n =>
    rcases exec_drw_cases h with ⟨-, rfl⟩ | ⟨-, rfl⟩
    · exact regsExcept_setV (s.setDisp _) _ _
    · exact regsExcept_raise _ _ _
  | ldVxMem x =>
    rcases exec_ldVxMem_cases h with ⟨-, rfl⟩ | ⟨-, rfl⟩
    · intro r hr
      have hx : ¬ r.val < x.val + 1 := by simpa [destRegs, Nat.lt_succ_iff] using hr
      rw [State.toNext_readV, readV_setRegs_loadRegs, if_neg hx]
    · exact regsExcept_raise _ _ _
  | cls | ret | jp | call | seImm | sneImm | seReg | sneReg | ldI | jpV0 | skp | sknp | ldDtVx | ldStVx | addIVx | ldFVx
  | ldBVx | ldMemVx => exact fun r _ => same_of_exec h (p := .v) (by simp [mayWrite]) r

/-! ## Successors of pc -/

theorem skipIf_pc_cases (s : State) (c : Bool) : (s.skipIf c).pc = s.pc + 2 ∨ (s.skipIf c).pc = s.pc + 4 := by
  cases c
  · exact .inl rfl
  · exact .inr rfl

theorem zextAddr_toNat_le (nnn : Addr12) : (zextAddr nnn).toNat ≤ 0x10FE := by
  have := nnn.isLt
  rw [zextAddr_toNat]; omega

/-- Settles O51: every instruction ends at NEXT but the skips, the transfers, the blocked key wait and the fatal
conditions. -/
theorem pcSuccessors : Obligations.PcSuccessors := by
  intro i s t h
  have raised {k : FatalKind} (ht : t = raise k s) : t.pc = s.pc ∧ ((∃ x, i = .ldVxK x) ∨ ∃ k, t.fault = some k) := by
    subst ht; exact ⟨rfl, .inr ⟨k, rfl⟩⟩
  cases i with
  | cls | ldImm | addImm | ldReg | or | and | xor | ldVxDt | addReg | sub | shr | subn | shl | ldI | addIVx | ldFVx
  | rnd | ldDtVx | ldStVx => cases h; exact .inl rfl
  | seImm | sneImm | seReg | sneReg =>
    cases h
    exact (skipIf_pc_cases s _).imp_right .inl
  | jp nnn =>
    cases h
    exact .inr (.inr (.inl (.inl ⟨⟨nnn, .inl rfl⟩, zextAddr_toNat_le nnn⟩)))
  | jpV0 nnn =>
    cases h
    have := nnn.isLt
    have := (s.readV 0).isLt
    refine .inr (.inr (.inl (.inl ⟨⟨nnn, .inr (.inr rfl)⟩, ?_⟩)))
    rw [State.setPc_pc, zextAddr_add_zextByte_toNat]; omega
  | ldVxK x =>
    rcases exec_ldVxK_cases h with ⟨-, rfl⟩ | ⟨-, rfl⟩ | ⟨k, -, rfl⟩
    · exact .inr (.inr (.inr ⟨rfl, .inl ⟨x, rfl⟩⟩))
    · exact .inr (.inr (.inr ⟨rfl, .inl ⟨x, rfl⟩⟩))
    · exact .inl rfl
  | call nnn =>
    rcases exec_call_cases h with ⟨hsp, rfl⟩ | ⟨-, ht⟩
    · exact .inr (.inr (.inl (.inl ⟨⟨nnn, .inr (.inl rfl)⟩, zextAddr_toNat_le nnn⟩)))
    · exact .inr (.inr (.inr (raised ht)))
  | ret =>
    rcases exec_ret_cases h with ⟨n, hn, -, rfl⟩ | ⟨-, ht⟩
    · exact .inr (.inr (.inl (.inr ⟨rfl, n, hn, rfl⟩)))
    · exact .inr (.inr (.inr (raised ht)))
  | skp x | sknp x =>
    rcases exec_keySkip_cases (x := x) (by simp) h with ⟨c, rfl⟩ | ⟨-, ht⟩
    · exact (skipIf_pc_cases s c).imp_right .inl
    · exact .inr (.inr (.inr (raised ht)))
  | ldBVx x | ldMemVx x =>
    rcases exec_store_cases (by simp) h with ⟨m, -, rfl⟩ | ⟨-, -, -, ht⟩
    · exact .inl rfl
    · exact .inr (.inr (.inr (raised ht)))
  | ldVxMem x =>
    rcases exec_ldVxMem_cases h with ⟨-, rfl⟩ | ⟨-, ht⟩
    · exact .inl rfl
    · exact .inr (.inr (.inr (raised ht)))
  | drw x y n =>
    rcases exec_drw_cases h with ⟨-, rfl⟩ | ⟨-, ht⟩
    · exact .inl rfl
    · exact .inr (.inr (.inr (raised ht)))

/-! ## Fatal conditions -/

/-- An instruction that can raise has the record among what it may write (R33). -/
theorem fault_eq_of_exec {i : Instr} {s t : State} (h : exec i s = .next t) (hi : .fault ∉ mayWrite i) :
    t.fault = s.fault := same_of_exec h hi

theorem faultExplained_rangeFault {s : State} {count : Nat} (hc : count ≤ 16) (h : ¬ RangeOk s count) :
    FaultExplained (raise (rangeFault s) s) := by
  obtain ⟨hp, -, hlt⟩ := not_rangeOk_iff.1 h
  refine ⟨hp, rfl, ?_⟩
  rw [raise_i]; omega

theorem faultExplained_keyFault {s : State} {x : Reg} (h : ¬ KeyOk s x) :
    FaultExplained (raise (.keyIndexOutOfRange (s.readV x)) s) := by
  obtain ⟨hp, hk⟩ := not_keyOk_iff.1 h
  exact ⟨hp, hk, x, rfl⟩

/-- An instruction completes and leaves the fault record as it was, or raises a condition that holds and writes nothing
but the record. -/
theorem exec_completes_or_raises {i : Instr} {s t : State} (h : exec i s = .next t) :
    t.fault = s.fault ∨ ∃ k, t = raise k s ∧ (WellFormed i = true → FaultExplained t) := by
  cases i with
  | call nnn =>
    rcases exec_call_cases h with ⟨hsp, rfl⟩ | ⟨hsp, rfl⟩
    · exact .inl rfl
    · exact .inr ⟨_, rfl, fun _ => hsp⟩
  | ret =>
    rcases exec_ret_cases h with ⟨n, hn, -, rfl⟩ | ⟨hsp, rfl⟩
    · exact .inl rfl
    · exact .inr ⟨_, rfl, fun _ => hsp⟩
  | skp x | sknp x =>
    rcases exec_keySkip_cases (x := x) (by simp) h with ⟨c, rfl⟩ | ⟨hk, rfl⟩
    · exact .inl (State.skipIf_fault s c)
    · exact .inr ⟨_, rfl, fun _ => faultExplained_keyFault hk⟩
  | ldBVx x | ldMemVx x =>
    rcases exec_store_cases (by simp) h with ⟨m, -, rfl⟩ | ⟨count, hc, hr, rfl⟩
    · exact .inl rfl
    · exact .inr ⟨_, rfl, fun _ => faultExplained_rangeFault hc hr⟩
  | ldVxMem x =>
    rcases exec_ldVxMem_cases h with ⟨-, rfl⟩ | ⟨hr, rfl⟩
    · exact .inl rfl
    · exact .inr ⟨_, rfl, fun _ => faultExplained_rangeFault x.isLt hr⟩
  | drw x y n =>
    rcases exec_drw_cases h with ⟨-, rfl⟩ | ⟨hr, rfl⟩
    · exact .inl rfl
    · exact .inr ⟨_, rfl, fun hwf => faultExplained_rangeFault (Nat.le_succ_of_le (of_decide_eq_true hwf)) hr⟩
  | cls | jp | seImm | sneImm | seReg | sneReg | ldImm | addImm | ldReg | or | and | xor | addReg | sub | shr | subn
  | shl | ldI | jpV0 | rnd | ldVxDt | ldVxK | ldDtVx | ldStVx | addIVx | ldFVx =>
    exact .inl (fault_eq_of_exec h (by simp [mayWrite]))

/-- From a state without a record, a record after an instruction is one it raised. -/
theorem eq_raise_of_exec {i : Instr} {s t : State} {k : FatalKind} (hs : s.fault = none) (h : exec i s = .next t)
    (hk : t.fault = some k) : t = raise k s ∧ (WellFormed i = true → FaultExplained t) := by
  rcases exec_completes_or_raises h with hf | ⟨k', rfl, he⟩
  · rw [hf, hs] at hk; cases hk
  · cases hk; exact ⟨rfl, he⟩

end Sys2Proof.Machine
end

section
/-! SUPPORT. The cycle (30_encoding.md R81, R82, 60_exceptions.md R180 to R184, R195): the five ways it ends, said once,
and the proofs of the statements about its outcomes, its fatal conditions and its fetch. -/

namespace Sys2Proof.Machine

/-! ## Totality -/

theorem settle_total (s : State) (r : Except FatalKind State) : ∃ t, settle s r = .next t := by
  cases r with
  | ok t => exact ⟨t, rfl⟩
  | error k => exact ⟨raise k s, rfl⟩

theorem exec_total (i : Instr) (s : State) : ∃ t, exec i s = .next t := by
  cases i with
  | ret | call | drw | skp | sknp | ldBVx | ldMemVx | ldVxMem => exact settle_total s _
  | ldVxK x =>
    simp only [exec, execLdVxK]
    split
    · exact ⟨_, rfl⟩
    · exact ⟨_, rfl⟩
    · exact ⟨_, rfl⟩
  | cls | jp | seImm | sneImm | seReg | sneReg | ldImm | addImm | ldReg | or | and | xor | addReg | sub | shr | subn
  | shl | ldI | jpV0 | rnd | ldVxDt | ldDtVx | ldStVx | addIVx | ldFVx => exact ⟨_, rfl⟩

theorem finish_total (s0 : State) (i : Instr) (t : State) : ∃ u o, finish s0 i (.next t) = .next (u, o) := by
  simp only [finish]
  split
  · exact ⟨_, _, rfl⟩
  · exact ⟨_, _, rfl⟩

theorem stepCycle_total (s : State) : ∃ t o, stepCycle s = .next (t, o) := by
  rcases hf : s.fault with _ | k
  · rcases hw : fetchWord s s.pc with k | w
    · exact ⟨_, _, stepCycle_fetchFault hf hw⟩
    · rcases hd : decode w with i | v
      · obtain ⟨t, ht⟩ := exec_total i (discardStaleWait (.instr i) s)
        obtain ⟨u, o, hu⟩ := finish_total s i t
        exact ⟨u, o, by rw [stepCycle_instr hf hw hd, ht, hu]⟩
      · exact ⟨_, _, stepCycle_unknown hf hw hd⟩
  · exact ⟨_, _, stepCycle_halted hf⟩

/-- Settles O15: `settle` and `finish` turn every fatal condition into a next state. -/
theorem everyCycleCompletes : Obligations.EveryCycleCompletes := by
  refine ⟨exec_total, fun s => ?_⟩
  obtain ⟨t, o, h⟩ := stepCycle_total s
  exact ⟨t, o, h, step_of_stepCycle h⟩

/-! ## The stale-wait discard (decision D8) -/

/-- The discard changes the wait and nothing else. -/
theorem discardStaleWait_setWait (d : Decoded) (s : State) : ∃ z, discardStaleWait d s = s.setWait z := by
  rcases discardStaleWait_eq d s with h | h
  · exact ⟨s.wait, h⟩
  · exact ⟨.idle, h⟩

theorem setWait_of_wait_eq {s : State} {z : Wait} (h : s.wait = z) : s.setWait z = s := by
  subst h; rfl

theorem discardStaleWait_own {s : State} {x : Reg} {l : Option (Fin 16)} (h : s.wait = .awaiting x l) :
    discardStaleWait (.instr (.ldVxK x)) s = s := by
  simp only [discardStaleWait, h, if_true]

theorem discardStaleWait_other {d : Decoded} {s : State} (h : ∀ x l, s.wait = .awaiting x l → d ≠ .instr (.ldVxK x)) :
    discardStaleWait d s = s.setWait .idle := by
  unfold discardStaleWait
  split
  · next hw => exact (setWait_of_wait_eq hw).symm
  · next x l hw => exact if_neg (h x l hw)

theorem discardStaleWait_unknown (v : Word) (s : State) : discardStaleWait (.unknown v) s = s.setWait .idle :=
  discardStaleWait_other fun _ _ _ h => nomatch h

/-! ## The outcome of an instruction that raised nothing -/

theorem completion_ldVxK (x : Reg) (t : State) :
    completion (.ldVxK x) t = if t.wait = .idle then .advanced else .blocked := by
  unfold completion
  cases t.wait <;> simp

/-- Only Fx0A writes the wait. -/
theorem wait_eq_of_exec {i : Instr} {s t : State} (h : exec i s = .next t) (hi : ∀ x, i ≠ .ldVxK x) :
    t.wait = s.wait := by
  refine same_of_exec h (p := .wait) ?_
  cases i with
  | ldVxK x => exact absurd rfl (hi x)
  | _ => simp [mayWrite]

/-! ## The ways a cycle ends -/

/-- A cycle from s ends in a state with an outcome: halted already, a fatal condition, an Unknown word, an Fx0A that
blocks, or an instruction that completes. -/
inductive CycleEnd (s : State) : State → CycleOutcome → Prop
  | halted {k : FatalKind} (hs : s.fault = some k) : CycleEnd s s (.fault k)
  | raised {k : FatalKind} (hs : s.fault = none) (hk : FaultExplained (raise k s)) : CycleEnd s (raise k s) (.fault k)
  | unknown {v : Word} (hs : s.fault = none) (hw : NextWord s v) (hd : decode v = .unknown v) :
    CycleEnd s (s.setWait .idle).toNext (.unknownOpcode v)
  | blocked {w : Word} {x : Reg} (hs : s.fault = none) (hw : NextWord s w) (hd : decode w = .instr (.ldVxK x)) :
    CycleEnd s (s.setWait (.awaiting x none)) .blocked
  | advanced {w : Word} {i : Instr} {z : Wait} {t : State} (hs : s.fault = none) (hw : NextWord s w)
    (hd : decode w = .instr i) (he : exec i (s.setWait z) = .next t) (ht : t.fault = none) (hwait : t.wait = .idle) :
    CycleEnd s t .advanced

theorem faultExplained_fetchFault {s : State} {k : FatalKind} (h : fetchWord s s.pc = .error k) :
    FaultExplained (raise k s) := by
  by_cases hpc : s.pc.toNat < 0xFFF
  · rw [fetchWord_ok hpc] at h; cases h
  · rw [fetchWord_error (Nat.le_of_not_lt hpc)] at h
    cases h
    exact ⟨rfl, Nat.le_of_not_lt hpc⟩

/-- An instruction that completes after the discard leaves no wait, unless it is an Fx0A that blocks. -/
theorem cycleEnd_of_completed {s t : State} {w : Word} {i : Instr} (hs : s.fault = none) (hw : NextWord s w)
    (hd : decode w = .instr i) (he : exec i (discardStaleWait (.instr i) s) = .next t) (ht : t.fault = none) :
    CycleEnd s t (completion i t) := by
  obtain ⟨z, hz⟩ := discardStaleWait_setWait (.instr i) s
  by_cases hi : ∃ x, i = .ldVxK x
  · obtain ⟨x, rfl⟩ := hi
    rw [hz] at he
    rw [completion_ldVxK]
    rcases exec_ldVxK_cases he with ⟨-, rfl⟩ | ⟨hb, rfl⟩ | ⟨k, -, rfl⟩
    · exact .blocked hs hw hd
    · obtain rfl : z = .awaiting x none := hb
      exact .blocked hs hw hd
    · exact .advanced hs hw hd he ht rfl
  · have hi' : ∀ x, i ≠ .ldVxK x := fun x hx => hi ⟨x, hx⟩
    have hwait : t.wait = .idle := by
      rw [wait_eq_of_exec he hi', discardStaleWait_wait fun x hx => hi' x (Decoded.instr.inj hx)]
    rw [hz] at he
    rw [show completion i t = .advanced from advances_of_ne_ldVxK hi' t]
    exact .advanced hs hw hd he ht hwait

theorem cycleEnd_of_stepCycle {s t : State} {o : CycleOutcome} (h : stepCycle s = .next (t, o)) : CycleEnd s t o := by
  rcases stepCycle_cases h with ⟨k, hk, rfl, rfl⟩ | ⟨k, hs, hf, rfl, rfl⟩ | ⟨w, v, hs, hw, hd, rfl, rfl⟩ |
    ⟨w, i, u, hs, hw, hd, he, ⟨k, hk, rfl, rfl⟩ | ⟨hu, rfl, rfl⟩⟩
  · exact .halted hk
  · exact .raised hs (faultExplained_fetchFault hf)
  · obtain rfl := eq_of_decode_unknown hd
    rw [discardStaleWait_unknown]
    exact .unknown hs hw hd
  · obtain ⟨z, hz⟩ := discardStaleWait_setWait (.instr i) s
    rw [hz] at he
    obtain ⟨rfl, hex⟩ := eq_raise_of_exec (s := s.setWait z) hs he hk
    exact .raised hs (hex (standsFor_of_decode hd).1)
  · exact cycleEnd_of_completed hs hw hd he hu

theorem cycleEnd_of_step {s t : State} (h : step s = .next t) : ∃ o, stepCycle s = .next (t, o) ∧ CycleEnd s t o := by
  obtain ⟨o, ho⟩ := stepCycle_of_step h
  exact ⟨o, ho, cycleEnd_of_stepCycle ho⟩

/-- Settles O12: what each outcome says, read off the way the cycle ends. -/
theorem outcomesReportTheCycle : Obligations.OutcomesReportTheCycle := by
  intro s t o h
  cases cycleEnd_of_stepCycle h with
  | halted hs => exact ⟨hs, .inl hs⟩
  | raised hs _ => exact ⟨rfl, .inr hs⟩
  | unknown hs hw hd => exact ⟨hs, rfl, hw, hd⟩
  | blocked hs hw hd => exact ⟨hs, rfl, _, _, hw, hd, rfl⟩
  | advanced hs hw hd _ ht hwait => exact ⟨ht, hs, hwait, _, _, hw, hd⟩

/-- Settles O13: an instruction that raises is `raise` on the state it was given, and a cycle that raises is `raise` on
the state before it. -/
theorem fatalConditionIsPrecise : Obligations.FatalConditionIsPrecise := by
  refine ⟨fun i s t k hs h hk => ?_, fun s t k hs h hk => ?_⟩
  · rw [(eq_raise_of_exec hs h hk).1]
    exact frame_raise s k
  · obtain ⟨o, ho, hend⟩ := cycleEnd_of_step h
    have none_ne {u : State} (hu : u.fault = none) (hu' : u.fault = some k) : False := by rw [hu] at hu'; cases hu'
    cases hend with
    | raised => cases hk; exact ⟨ho, frame_raise s k⟩
    | halted | unknown | blocked => exact (none_ne hs hk).elim
    | advanced _ _ _ _ ht => exact (none_ne ht hk).elim

/-! ## The fetch -/

/-- The bytes do not overlap, so their sum in place is their union. -/
theorem wordOfBytes_eq_or (hi lo : Byte) : wordOfBytes hi lo = hi.setWidth 16 <<< 8 ||| lo.setWidth 16 := by
  have h1 := hi.isLt
  have h2 := lo.isLt
  rw [← BitVec.toNat_inj, wordOfBytes_toNat, BitVec.toNat_or, BitVec.toNat_shiftLeft,
    BitVec.toNat_setWidth_of_le (by decide), BitVec.toNat_setWidth_of_le (by decide), Nat.shiftLeft_eq,
    Nat.mod_eq_of_lt (by omega), mul_comm, ← Nat.two_pow_add_eq_or_of_lt h2, mul_comm]

/-- Settles O8: the bound is tested before the policy is looked at. -/
theorem fetchIsBoundChecked : Obligations.FetchIsBoundChecked := by
  refine fun s p => ⟨fun h => fetchWord_error (by omega), fun h => ⟨_, fetchWord_ok (by omega), ?_⟩⟩
  exact wordOfBytes_eq_or _ _

/-- Settles O9: the fetch fails and the cycle raises. -/
theorem fetchFaultHaltsAtPc : Obligations.FetchFaultHaltsAtPc := by
  intro s hs hpc
  have h := stepCycle_fetchFault hs (fetchWord_error hpc)
  exact ⟨_, h, step_of_stepCycle h, rfl, frame_raise s _⟩

/-- Settles O10: Unknown names the word itself, and the cycle discards the wait and moves pc. -/
theorem unknownOpcodeAdvances : Obligations.UnknownOpcodeAdvances := by
  intro s w v hs hw hd
  obtain rfl := eq_of_decode_unknown hd
  have h := stepCycle_unknown hs hw hd
  rw [discardStaleWait_unknown] at h
  exact ⟨rfl, _, h, step_of_stepCycle h, rfl, rfl, hs, ((frame_setWait s _).trans (frame_toNext _)).mono (by simp)⟩

theorem finish_completed {s t : State} {i : Instr} (h : t.fault = none) :
    finish s i (.next t) = .next (t, completion i t) := by
  simp only [finish, h]

theorem finish_raised {s t : State} {i : Instr} {k : FatalKind} (h : t.fault = some k) :
    finish s i (.next t) = .next (raise k s, .fault k) := by
  simp only [finish, h]

/-- Settles O11: the state the instruction runs on is that after the discard. -/
theorem stepRunsDecodedInstruction : Obligations.StepRunsDecodedInstruction := by
  intro s i hs hpc hd
  have hcycle := stepCycle_instr hs (fetchWord_ok hpc) hd
  refine ⟨discardStaleWait (.instr i) s, discardStaleWait_eq _ s, ?_, ?_, fun t he ht => ?_, fun t k he hk => ?_⟩
  · rintro x l rfl hw
    exact discardStaleWait_own hw
  · intro y l hw hi
    have hother : ∀ x l, s.wait = .awaiting x l → Decoded.instr i ≠ .instr (.ldVxK x) := by
      rintro x l' hw' hx
      rw [hw] at hw'; cases hw'
      exact hi (Decoded.instr.inj hx)
    rw [discardStaleWait_other hother]; rfl
  · rw [he, finish_completed ht] at hcycle
    refine ⟨step_of_stepCycle hcycle, fun hi => ?_, fun x hx => ?_⟩
    · rwa [show completion i t = .advanced from advances_of_ne_ldVxK hi t] at hcycle
    · rwa [hx, completion_ldVxK] at hcycle
  · rw [he, finish_raised hk] at hcycle
    exact step_of_stepCycle hcycle

end Sys2Proof.Machine
end

section
/-! SUPPORT. The host's operations (60_exceptions.md R183, R196, R197, 45_timers_and_input.md R166, R167,
70_reset_and_hazards.md R210 to R214): what each leaves, said once, and the proofs of the statements about them. -/

namespace Sys2Proof.Machine

/-! ## Reset (R210, R39) -/

theorem resetCore_eq (s : State) : resetCore s = State.atReset s.cfg s.key s.draws := rfl

theorem resetByte_font (c : Config) {a : Nat} (h : a < 80) : resetByte c a = c.font[a] := dif_pos h

theorem resetByte_zero (c : Config) {a : Nat} (h : 80 ≤ a) : resetByte c a = 0 := dif_neg (Nat.not_lt.2 h)

theorem resetByte_congr {c c' : Config} (h : c.font = c'.font) (a : Nat) : resetByte c a = resetByte c' a := by
  simp only [resetByte, h]

/-- Settles O1: the reset state is written out field by field, and its memory lists nothing, so that every byte is at
its reset contents. -/
theorem resetLeavesListedState : Obligations.ResetLeavesListedState := by
  refine ⟨fun s => ?_, fun k => ?_, rfl⟩
  · exact ⟨rfl, rfl, rfl, State.atReset_readV _ _ _, rfl, rfl, pixelAt_blankDisplay,
      fun j hj => Vector.getElem_replicate hj, rfl, rfl, fun a ha => resetByte_font _ ha,
      fun a ha _ => resetByte_zero _ ha, rfl, rfl⟩
  · exact Vector.getElem_replicate k.isLt

/-- Settles O2: reset keeps the three things it depends on, and memory after reset depends on the font alone. -/
theorem resetIdempotent : Obligations.ResetIdempotent := by
  refine ⟨fun _ => rfl, fun s t hfont hkey p hp => ?_, fun s a ha => resetByte_font _ ha⟩
  cases p with
  | cfg | draws => simp at hp
  | mem => exact fun a => resetByte_congr hfont.symm a
  | key => exact hkey.symm
  | v => exact fun r => by rw [resetCore_eq, resetCore_eq, State.atReset_readV, State.atReset_readV]
  | disp => exact fun x y => rfl
  | i | pc | stack | sp | dt | st | wait | fault => rfl

/-! ## Load (R213) -/

theorem frame_placeBytes (s : State) (a : Nat) (bytes : List Byte) : SameExcept [.mem] s (placeBytes s a bytes) := by
  induction bytes generalizing s a with
  | nil => exact SameExcept.refl _ _
  | cons b bs ih => exact ((frame_withByte s a b).trans (ih _ _)).mono (by simp)

theorem byteAt_placeBytes (s : State) (a b : Nat) (bytes : List Byte) : (placeBytes s a bytes).byteAt b =
    if h : a ≤ b ∧ b < a + bytes.length then bytes[b - a]'(by omega) else s.byteAt b := by
  induction bytes generalizing s a with
  | nil => simp only [placeBytes, List.length_nil]; rw [dif_neg (by omega)]
  | cons v vs ih =>
    simp only [placeBytes, ih, State.byteAt_withByte, List.length_cons]
    rcases lt_trichotomy b a with h | rfl | h
    · rw [dif_neg (by omega), dif_neg (by omega), if_neg (by omega)]
    · rw [dif_neg (by omega), dif_pos (by omega), if_pos rfl]
      simp
    · by_cases h2 : b < a + 1 + vs.length
      · rw [dif_pos (by omega), dif_pos (by omega)]
        have : b - a = (b - (a + 1)) + 1 := by omega
        simp [this]
      · rw [dif_neg (by omega), dif_neg (by omega), if_neg (by omega)]

/-- An image that ends by 0xFFF keeps memory in canonical form. -/
theorem wf_placeBytes {s : State} {a : Nat} {bytes : List Byte} (ha : a + bytes.length ≤ 0x1000)
    (h : Memory.wf s.cfg s.mem) : Memory.wf (placeBytes s a bytes).cfg (placeBytes s a bytes).mem := by
  induction bytes generalizing s a with
  | nil => exact h
  | cons b bs ih =>
    rw [List.length_cons] at ha
    exact ih (by omega) (State.wf_withByte b (by omega) h)

theorem load_ok {bytes : List Byte} (h : bytes.length ≤ maxProgram) (s : State) :
    load bytes s = .next (placeBytes s 0x200 bytes) := if_neg (Nat.not_lt.2 h)

theorem load_tooLarge {bytes : List Byte} (h : maxProgram < bytes.length) (s : State) :
    load bytes s = .fault .programTooLarge := if_pos h

theorem hostRun_load_ok {bytes : List Byte} (h : bytes.length ≤ maxProgram) (s : State) :
    hostRun (.load bytes) s = .next (placeBytes s 0x200 bytes, .loaded) := by
  simp only [hostRun, load_ok h]

theorem hostRun_load_tooLarge {bytes : List Byte} (h : maxProgram < bytes.length) (s : State) :
    hostRun (.load bytes) s = .next (s, .programTooLarge) := by
  simp only [hostRun, load_tooLarge h]

/-- Settles O3: the length decides; below the bound the image is placed byte by byte. -/
theorem loadPlacesImageOrRejects : Obligations.LoadPlacesImageOrRejects := by
  refine ⟨fun bytes s h => ?_, fun bytes s h => ⟨load_tooLarge h s, hostRun_load_tooLarge h s⟩⟩
  refine ⟨_, load_ok h s, hostRun_load_ok h s, fun k hk => ?_, fun a ha => ?_, frame_placeBytes s _ _⟩
  · rw [byteAt_placeBytes, dif_pos (by omega)]
    simp
  · rw [byteAt_placeBytes, dif_neg (by omega)]

/-! ## The timer tick (R166) -/

theorem tickDown_toNat (b : Byte) : (tickDown b).toNat = b.toNat - 1 := by
  have := b.isLt
  unfold tickDown
  split
  · next h => rw [byte_sub_toNat, show (1 : Byte).toNat = 1 from rfl]; omega
  · omega

theorem frame_tickTimers (s : State) : SameExcept [.dt, .st] s (tickTimers s) :=
  (frame_setDt s _).trans (frame_setSt _ _)

/-- Settles O4: the tick writes the two timers, each lowered by `tickDown`. -/
theorem tickLowersNonzeroTimers : Obligations.TickLowersNonzeroTimers :=
  fun s => ⟨tickDown_toNat s.dt, tickDown_toNat s.st, frame_tickTimers s, rfl⟩

/-! ## The key input (R167) -/

theorem setKeyState_eq (k : Fin 16) (pressed : Bool) (s : State) : setKeyState k pressed s =
    (s.setWait (if pressed && !s.keyAt k then latchEdge k s.wait else s.wait)).setKey (s.key.set k.val pressed) := by
  unfold setKeyState
  split <;> rfl

theorem setKeyState_wait (k : Fin 16) (pressed : Bool) (s : State) : (setKeyState k pressed s).wait =
    if pressed && !s.keyAt k then latchEdge k s.wait else s.wait := by
  rw [setKeyState_eq]; rfl

theorem setKeyState_keyAt (k : Fin 16) (pressed : Bool) (s : State) (j : Fin 16) :
    (setKeyState k pressed s).keyAt j = if j = k then pressed else s.keyAt j := by
  rw [setKeyState_eq, State.keyAt_setKey, Vector.getElem_set]
  simp only [Fin.ext_iff, eq_comm]
  rfl

theorem frame_setKeyState (k : Fin 16) (pressed : Bool) (s : State) :
    SameExcept [.key, .wait] s (setKeyState k pressed s) := by
  rw [setKeyState_eq]
  exact ((frame_setWait s _).trans (frame_setKey _ _)).mono (by simp)

theorem latchEdge_of_ne {k : Fin 16} {z : Wait} (h : ∀ x, z ≠ .awaiting x none) : latchEdge k z = z := by
  unfold latchEdge
  split
  · exact absurd rfl (h _)
  · rfl

theorem hostRun_setKeyState (k : Fin 16) (pressed : Bool) (s : State) :
    hostRun (.setKeyState k.val pressed) s = .next (setKeyState k pressed s, .done) := dif_pos k.isLt

/-- Settles O5: the wait is passed through `latchEdge` on an edge and kept otherwise. -/
theorem keyInputLatchesFirstEdge : Obligations.KeyInputLatchesFirstEdge := by
  refine ⟨fun k pressed s => ?_, fun k pressed s hk => dif_neg (Nat.not_lt.2 hk)⟩
  refine ⟨setKeyState_keyAt k pressed s, frame_setKeyState k pressed s, fun x hw hp hk => ?_, fun h => ?_,
    hostRun_setKeyState k pressed s⟩
  · rw [setKeyState_wait, hp, hk, hw]; rfl
  · rw [setKeyState_wait]
    rcases h with rfl | hk | hw
    · rfl
    · rw [hk, Bool.not_true, Bool.and_false]; rfl
    · rw [latchEdge_of_ne hw, ite_self]

/-! ## What an operation leaves -/

/-- The operations of the host on a running machine, each with the state it leaves. -/
inductive HostEnd (s : State) : HostOp → State → Prop
  | reset : HostEnd s .reset (resetCore s)
  | loaded {bytes : List Byte} (h : bytes.length ≤ maxProgram) : HostEnd s (.load bytes) (placeBytes s 0x200 bytes)
  | tooLarge {bytes : List Byte} (h : maxProgram < bytes.length) : HostEnd s (.load bytes) s
  | cycled {t : State} {o : CycleOutcome} (h : stepCycle s = .next (t, o)) : HostEnd s .stepCycle t
  | ticked : HostEnd s .tickTimers (tickTimers s)
  | keyed (k : Fin 16) (pressed : Bool) : HostEnd s (.setKeyState k.val pressed) (setKeyState k pressed s)
  | shown : HostEnd s .snapshotDisplay s
  | heard : HostEnd s .observeSound s

/-- Every operation with a legal key index is answered. -/
theorem hostRun_legal (op : HostOp) (s : State) (hk : ∀ k p, op = .setKeyState k p → k < 16) :
    ∃ t r, hostRun op s = .next (t, r) ∧ HostEnd s op t := by
  cases op with
  | reset => exact ⟨_, _, rfl, .reset⟩
  | load bytes =>
    rcases Nat.lt_or_ge maxProgram bytes.length with h | h
    · exact ⟨_, _, hostRun_load_tooLarge h s, .tooLarge h⟩
    · exact ⟨_, _, hostRun_load_ok h s, .loaded h⟩
  | stepCycle =>
    obtain ⟨t, o, h⟩ := stepCycle_total s
    exact ⟨t, .cycle o, by simp only [hostRun, h], .cycled h⟩
  | tickTimers => exact ⟨_, _, rfl, .ticked⟩
  | setKeyState k p =>
    have hk' := hk k p rfl
    exact ⟨_, _, hostRun_setKeyState ⟨k, hk'⟩ p s, .keyed ⟨k, hk'⟩ p⟩
  | snapshotDisplay => exact ⟨_, _, rfl, .shown⟩
  | observeSound => exact ⟨_, _, rfl, .heard⟩

theorem hostEnd_of_hostRun {op : HostOp} {s t : State} {r : Reply} (h : hostRun op s = .next (t, r)) :
    HostEnd s op t := by
  have hk : ∀ k p, op = .setKeyState k p → k < 16 := by
    rintro k p rfl
    by_contra hk
    rw [show hostRun (.setKeyState k p) s = .refused (.keyIndexNotLegal k) from dif_neg hk] at h
    cases h
  obtain ⟨t', r', h', hend⟩ := hostRun_legal op s hk
  cases h.symm.trans h'
  exact hend

theorem hostStep_running {op : HostOp} {s t : State} {r : Reply} (h : hostRun op s = .next (t, r)) :
    hostStep op (.running s) = .next (.running t, r) := by
  simp only [hostStep, h]

/-- Settles O7: a created machine answers reset alone, and a running one every legal call. -/
theorem hostDutiesAndLiberties : Obligations.HostDutiesAndLiberties := by
  refine ⟨fun c op hop => ?_, fun _ => rfl, rfl, fun op s hk => ?_⟩
  · cases op with
    | reset => exact absurd rfl hop
    | _ => rfl
  · obtain ⟨t, r, h, -⟩ := hostRun_legal op s hk
    exact ⟨t, r, hostStep_running h⟩

/-- Settles O14: a halted cycle is the identity, and only reset has the record in its frame. -/
theorem haltedUntilReset : Obligations.HaltedUntilReset := by
  intro s k hs
  have hcycle := stepCycle_halted hs
  refine ⟨hcycle, step_of_stepCycle hcycle, rfl, fun op t r hop h => ?_⟩
  have kept {l : List Part} (hf : SameExcept l s t) (hl : .fault ∉ l) : t.fault = some k := Eq.trans (hf .fault hl) hs
  cases hostEnd_of_hostRun h with
  | reset => exact absurd rfl hop
  | loaded => exact kept (frame_placeBytes _ _ _) (by simp)
  | tooLarge | shown | heard => exact hs
  | cycled ho => cases ho.symm.trans hcycle; exact hs
  | ticked => exact kept (frame_tickTimers _) (by simp)
  | keyed => exact kept (frame_setKeyState _ _ _) (by simp)

end Sys2Proof.Machine
end

section
/-! SUPPORT. The invariants of a run: `Inv` and `WaitAtInstr` hold after reset and are kept by every cycle and by the
operations of the host (10_state.md R24, R28, R32, 20_memory.md R50, 60_exceptions.md R180), with the proofs of the four
statements about them. -/

namespace Sys2Proof.Machine

/-! ## What the invariant depends on -/

/-- What the invariant never reads. -/
def invFree : List Part := [.mem, .dt, .st, .disp, .key, .wait, .draws]

theorem faultExplained_of_none {s : State} (h : s.fault = none) : FaultExplained s := by
  simp only [FaultExplained, h]

theorem faultExplained_congr {s t : State} (h : SameExcept invFree s t) (hs : FaultExplained s) : FaultExplained t := by
  have same (p : Part) (hp : p ∉ invFree := by decide) : p.Same s t := h p hp
  have hcfg : t.cfg = s.cfg := same .cfg
  have hv : ∀ r, t.readV r = s.readV r := same .v
  have hi : t.i = s.i := same .i
  have hpc : t.pc = s.pc := same .pc
  have hsp : t.sp = s.sp := same .sp
  have hf : t.fault = s.fault := same .fault
  simpa only [FaultExplained, hcfg, hv, hi, hpc, hsp, hf] using hs

/-- Every stack entry in use is a return address (40_control_flow.md R100). -/
def StackOk (s : State) : Prop := ∀ j, (h : j < 16) → j < s.sp.val → s.stack[j].toNat ≤ 0x1000

theorem stackOk_congr {s t : State} (hst : t.stack = s.stack) (hsp : t.sp = s.sp) (h : StackOk s) : StackOk t := by
  intro j hj hlt
  rw [hsp] at hlt
  simpa only [hst] using h j hj hlt

theorem Inv.congr {s t : State} (hs : Inv s) (h : SameExcept invFree s t) (hm : Memory.wf t.cfg t.mem) : Inv t where
  memory := hm
  pcBound := by rw [show t.pc = s.pc from h .pc (by decide)]; exact hs.pcBound
  stackBound := stackOk_congr (h .stack (by decide)) (h .sp (by decide)) hs.stackBound
  faultTrue := faultExplained_congr h hs.faultTrue

/-! ## The invariant after reset -/

theorem inv_atReset (c : Config) (key : Vector Bool 16) (draws : Nat) : Inv (State.atReset c key draws) where
  memory := Memory.wf_nil c
  pcBound := show (0x200 : Word).toNat ≤ 0x10FE by decide
  stackBound := fun _ _ h => absurd h (Nat.not_lt_zero _)
  faultTrue := faultExplained_of_none rfl

theorem waitAtInstr_of_idle {s : State} (h : s.wait = .idle) : WaitAtInstr s := by
  intro x l hx
  rw [h] at hx; cases hx

/-- Settles O54: no memory cell is listed, no stack entry is in use, no record and no wait is left. -/
theorem invariantAtReset : Obligations.InvariantAtReset :=
  ⟨inv_atReset _ _ _, fun _ => inv_atReset _ _ _, waitAtInstr_of_idle rfl⟩

/-! ## The invariant through an instruction -/

theorem exec_keeps_wf {i : Instr} {s t : State} (h : exec i s = .next t) (hs : Memory.wf s.cfg s.mem) :
    Memory.wf t.cfg t.mem := by
  cases i with
  | ldBVx x | ldMemVx x =>
    rcases exec_store_cases (by simp) h with ⟨m, hm, rfl⟩ | ⟨-, -, -, rfl⟩
    · exact hm hs
    · exact hs
  | cls | jp | jpV0 | ldImm | addImm | ldReg | or | and | xor | ldVxDt | addReg | sub | shr | subn | shl | ldI | addIVx
  | ldFVx | rnd | ldDtVx | ldStVx => cases h; exact hs
  | seImm | sneImm | seReg | sneReg => cases h; rwa [State.skipIf_cfg, State.skipIf_mem]
  | skp x | sknp x =>
    rcases exec_keySkip_cases (x := x) (by simp) h with ⟨c, rfl⟩ | ⟨-, rfl⟩
    · rwa [State.skipIf_cfg, State.skipIf_mem]
    · exact hs
  | ldVxK x => rcases exec_ldVxK_cases h with ⟨-, rfl⟩ | ⟨-, rfl⟩ | ⟨k, -, rfl⟩ <;> exact hs
  | call nnn => rcases exec_call_cases h with ⟨hsp, rfl⟩ | ⟨-, rfl⟩ <;> exact hs
  | ret => rcases exec_ret_cases h with ⟨n, hn, -, rfl⟩ | ⟨-, rfl⟩ <;> exact hs
  | ldVxMem x => rcases exec_ldVxMem_cases h with ⟨-, rfl⟩ | ⟨-, rfl⟩ <;> exact hs
  | drw x y n => rcases exec_drw_cases h with ⟨-, rfl⟩ | ⟨-, rfl⟩ <;> exact hs

/-- A call pushes the address after it, a return takes an entry out of use; nothing else moves the stack. -/
theorem exec_keeps_stackOk {i : Instr} {s t : State} (h : exec i s = .next t) (hpc : s.pc.toNat < 0xFFF)
    (hs : StackOk s) : StackOk t := by
  by_cases hi : .sp ∈ mayWrite i
  · cases i with
    | call nnn =>
      rcases exec_call_cases h with ⟨hsp, rfl⟩ | ⟨-, rfl⟩
      · intro j hj hlt
        have hlt' : j < s.sp.val + 1 := hlt
        simp only [State.setPc_stack, State.setStack_stack, Vector.getElem_set]
        split
        · have hnext : (s.pc + 2).toNat = s.pc.toNat + 2 := by bv_omega
          omega
        · exact hs j hj (by omega)
      · exact hs
    | ret =>
      rcases exec_ret_cases h with ⟨n, hn, hsp, rfl⟩ | ⟨-, rfl⟩
      · exact fun j hj hlt => hs j hj (hsp ▸ Nat.lt_succ_of_lt hlt)
      · exact hs
    | _ => simp [mayWrite] at hi
  · exact stackOk_congr (stack_eq_of_exec h hi) (same_of_exec h (p := .sp) hi) hs

theorem exec_keeps_pcBound {i : Instr} {s t : State} (h : exec i s = .next t) (hpc : s.pc.toNat < 0xFFF)
    (hs : StackOk s) : t.pc.toNat ≤ 0x10FE := by
  rcases pcSuccessors i s t h with hp | hp | (⟨-, hp⟩ | ⟨rfl, -⟩) | ⟨hp, -⟩
  · rw [hp]; bv_omega
  · rw [hp]; bv_omega
  · exact hp
  · rcases exec_ret_cases h with ⟨n, hn, hsp, rfl⟩ | ⟨-, rfl⟩
    · have hentry := hs n hn (by omega)
      rw [State.setPc_pc]; omega
    · rw [raise_pc]; omega
  · rw [hp]; omega

theorem exec_keeps_inv {i : Instr} {s t : State} (h : exec i s = .next t) (hpc : s.pc.toNat < 0xFFF) (hs : Inv s)
    (ht : t.fault = none) : Inv t where
  memory := exec_keeps_wf h hs.memory
  pcBound := exec_keeps_pcBound h hpc hs.stackBound
  stackBound := exec_keeps_stackOk h hpc hs.stackBound
  faultTrue := faultExplained_of_none ht

/-! ## The invariant through a cycle and through an operation of the host -/

theorem pc_lt_of_nextWord {s : State} {w : Word} (h : NextWord s w) : s.pc.toNat < 0xFFF := by
  by_contra hpc
  rw [NextWord, fetchWord_error (Nat.le_of_not_lt hpc)] at h
  cases h

theorem inv_setWait {s : State} (h : Inv s) (z : Wait) : Inv (s.setWait z) :=
  h.congr ((frame_setWait s z).mono (by decide)) h.memory

/-- Settles O55: by the ways a cycle ends. A raised condition is explained, and a completed instruction started from a
pc that could be fetched, so that pc + 2 is at most 0x1000. -/
theorem stepKeepsInvariant : Obligations.StepKeepsInvariant := by
  intro s t hs h
  obtain ⟨o, -, hend⟩ := cycleEnd_of_step h
  cases hend with
  | halted => exact hs
  | raised _ hk => exact ⟨hs.memory, hs.pcBound, hs.stackBound, hk⟩
  | unknown hf hw _ =>
    have hpc := pc_lt_of_nextWord hw
    refine ⟨hs.memory, ?_, hs.stackBound, faultExplained_of_none hf⟩
    rw [State.toNext_pc, State.setWait_pc]; bv_omega
  | blocked => exact inv_setWait hs _
  | advanced _ hw _ he ht _ => exact exec_keeps_inv he (pc_lt_of_nextWord hw) (inv_setWait hs _) ht

/-- Settles O56: reset establishes the invariant, load keeps memory canonical, and the others write nothing it reads. -/
theorem hostOperationsKeepInvariant : Obligations.HostOperationsKeepInvariant := by
  intro op s t r hs h
  cases hostEnd_of_hostRun h with
  | reset => exact inv_atReset _ _ _
  | loaded hl =>
    exact hs.congr ((frame_placeBytes s _ _).mono (by decide)) (wf_placeBytes (Nat.add_le_add_left hl 0x200) hs.memory)
  | tooLarge | shown | heard => exact hs
  | cycled ho => exact stepKeepsInvariant s t hs (step_of_stepCycle ho)
  | ticked => exact hs.congr ((frame_tickTimers s).mono (by decide)) hs.memory
  | keyed k p =>
    refine hs.congr ((frame_setKeyState k p s).mono (by decide)) ?_
    rw [setKeyState_eq]
    exact hs.memory

/-! ## The wait stays at its instruction (R32, R81) -/

/-- The bytes at pc and the register waited for are what `WaitAtInstr` reads. -/
theorem waitAtInstr_congr {s t : State} (hnext : ∀ w, NextWord s w → NextWord t w)
    (hwait : ∀ x l, t.wait = .awaiting x l → ∃ l', s.wait = .awaiting x l') (hs : WaitAtInstr s) : WaitAtInstr t := by
  intro x l hx
  obtain ⟨l', hl'⟩ := hwait x l hx
  obtain ⟨w, hw, hd⟩ := hs x l' hl'
  exact ⟨w, hnext w hw, hd⟩

theorem waitAtInstr_tickTimers {s : State} (hs : WaitAtInstr s) : WaitAtInstr (tickTimers s) :=
  waitAtInstr_congr (fun _ hw => hw) (fun _ l hx => ⟨l, hx⟩) hs

theorem nextWord_setKeyState {s : State} {w : Word} (k : Fin 16) (p : Bool) (h : NextWord s w) :
    NextWord (setKeyState k p s) w := by
  rw [setKeyState_eq]
  exact h

/-- An edge changes the latch of a wait and not its register. -/
theorem awaiting_of_latchEdge {k : Fin 16} {z : Wait} {x : Reg} {l : Option (Fin 16)}
    (h : latchEdge k z = .awaiting x l) : ∃ l', z = .awaiting x l' := by
  unfold latchEdge at h
  split at h
  · cases h; exact ⟨_, rfl⟩
  · exact ⟨l, h⟩

theorem waitAtInstr_setKeyState (k : Fin 16) (p : Bool) {s : State} (hs : WaitAtInstr s) :
    WaitAtInstr (setKeyState k p s) := by
  refine waitAtInstr_congr (fun _ => nextWord_setKeyState k p) (fun x l hx => ?_) hs
  rw [setKeyState_wait] at hx
  split at hx
  · exact awaiting_of_latchEdge hx
  · exact ⟨l, hx⟩

/-- A cycle that leaves no record leaves no wait, or has just found its Fx0A at pc. -/
theorem waitAtInstr_of_cycle {s t : State} (h : step s = .next t) (ht : t.fault = none) : WaitAtInstr t := by
  obtain ⟨o, -, hend⟩ := cycleEnd_of_step h
  cases hend with
  | halted hs => rw [hs] at ht; cases ht
  | raised => cases ht
  | unknown => exact waitAtInstr_of_idle rfl
  | blocked _ hw hd =>
    intro y l hy
    cases hy
    exact ⟨_, hw, hd⟩
  | advanced _ _ _ _ _ hwait => exact waitAtInstr_of_idle hwait

theorem step_keeps_waitAtInstr {s t : State} (hs : WaitAtInstr s) (h : step s = .next t) : WaitAtInstr t := by
  obtain ⟨o, -, hend⟩ := cycleEnd_of_step h
  cases hend with
  | halted => exact hs
  | raised => exact waitAtInstr_congr (fun _ hw => hw) (fun _ l hx => ⟨l, hx⟩) hs
  | unknown hf | blocked hf => exact waitAtInstr_of_cycle h hf
  | advanced _ _ _ _ ht _ => exact waitAtInstr_of_cycle h ht

/-- Settles O57: the cycle finds the Fx0A it waits for or drops the wait; a tick and a key event leave the bytes at pc
and the register waited for. -/
theorem waitStaysAtItsInstruction : Obligations.WaitStaysAtItsInstruction := by
  refine ⟨fun s t => step_keeps_waitAtInstr, fun s => waitAtInstr_tickTimers, fun k p s => waitAtInstr_setKeyState k p,
    fun op s t r hop hs h => ?_, fun _ s t u _ => waitAtInstr_of_cycle, fun s t => waitAtInstr_of_cycle⟩
  cases hostEnd_of_hostRun h with
  | reset => exact waitAtInstr_of_idle rfl
  | loaded => exact absurd rfl (hop _)
  | tooLarge | shown | heard => exact hs
  | cycled ho => exact step_keeps_waitAtInstr hs (step_of_stepCycle ho)
  | ticked => exact waitAtInstr_tickTimers hs
  | keyed k p => exact waitAtInstr_setKeyState k p hs

end Sys2Proof.Machine
end

section
/-! SUPPORT. Calls and returns, the key skips, the logic and shift instructions, Fx29, Cxnn and the key wait
(40_control_flow.md, 42_register_alu.md, 45_timers_and_input.md): the proofs of the statements about each. -/

namespace Sys2Proof.Machine

/-- What an instruction that ends in a fatal condition leaves (60_exceptions.md R182). -/
theorem raises_of_exec {i : Instr} {s : State} {k : FatalKind} (h : exec i s = .next (raise k s)) :
    ∃ t, exec i s = .next t ∧ t.fault = some k ∧ SameExcept [.fault] s t :=
  ⟨_, h, rfl, frame_raise s k⟩

/-! ## Calls and returns (R100, R102) -/

/-- Settles O23: `push` writes the entry at sp and moves sp, or raises at sixteen. -/
theorem callPushesReturnAddress : Obligations.CallPushesReturnAddress := by
  refine ⟨encodedBy_of_opField (op := 0x2) (by decide) fun _ => decode_call, fun nnn s hsp => ?_,
    fun nnn s hsp => raises_of_exec (exec_call_overflow nnn hsp)⟩
  refine ⟨_, exec_call_ok nnn hsp, zextAddr_toNat nnn, rfl, fun j hj => ?_,
    ((frame_setStack s _ _).trans (frame_setPc _ _)).mono (by simp)⟩
  simp only [State.setPc_stack, State.setStack_stack, Vector.getElem_set, eq_comm]

/-- Settles O24: `pop` reads the entry below sp and moves sp alone, or raises at zero. -/
theorem returnPopsIntoPc : Obligations.ReturnPopsIntoPc := by
  refine ⟨encodedBy_of_decode decode_0x00EE, fun s n hn hsp => ?_, fun s hsp => raises_of_exec (exec_ret_underflow hsp)⟩
  exact ⟨_, exec_ret_ok hn hsp, rfl, rfl, ((frame_setSp s _).trans (frame_setPc _ _)).mono (by simp)⟩

/-- Settles O25: the return pops the entry the call pushed. -/
theorem returnResumesAfterCall : Obligations.ReturnResumesAfterCall := by
  intro nnn s t u hsp hcall hu_sp hu_stack
  obtain rfl := exec_det hcall (exec_call_ok nnn hsp)
  have husp : u.sp.val = s.sp.val + 1 := congrArg Fin.val hu_sp
  refine ⟨_, exec_ret_ok hsp husp, ?_, rfl⟩
  rw [State.setPc_pc, hu_stack]
  simp only [State.setPc_stack, State.setStack_stack, Vector.getElem_set_self]

/-! ## The key skips (R160, R161) -/

/-- Settles O28: with a key to test both are `skipIf` on its latch, without one both raise. -/
theorem keySkips : Obligations.KeySkips := by
  refine ⟨encodedBy_of_decodeKey (sel := 0x9E) (by decide) fun w hsel => by simp only [decodeKey, hsel],
    encodedBy_of_decodeKey (sel := 0xA1) (by decide) fun w hsel => by simp only [decodeKey, hsel],
    fun x k s hk hok => ?_, fun x i s hi hx hpol => ?_⟩
  · have hkey : KeyOk s x := hok.symm.imp_right Nat.lt_succ_of_le
    obtain rfl : k = keyOf s x := Fin.ext hk
    refine ⟨⟨_, exec_skp_ok hkey, State.skipIf_pc s _, frame_skipIf s _⟩, _, exec_sknp_ok hkey, ?_, frame_skipIf s _⟩
    rw [State.skipIf_pc]
    cases s.keyAt (keyOf s x) <;> rfl
  · have hkey : ¬ KeyOk s x := not_keyOk_iff.2 ⟨hpol, hx⟩
    rcases hi with rfl | rfl
    · exact raises_of_exec (exec_skp_error hkey)
    · exact raises_of_exec (exec_sknp_error hkey)

/-! ## Logic and shifts (R123 to R125, R128, R130) -/

/-- Settles O30: each is one write of Vx, of a bitwise result. -/
theorem logicIsBitwise : Obligations.LogicIsBitwise := by
  refine ⟨encodedBy_of_decodeAlu (n := 0x1) (by decide) fun w hn => by simp only [decodeAlu, hn],
    encodedBy_of_decodeAlu (n := 0x2) (by decide) fun w hn => by simp only [decodeAlu, hn],
    encodedBy_of_decodeAlu (n := 0x3) (by decide) fun w hn => by simp only [decodeAlu, hn], fun x y s => ⟨?_, ?_, ?_⟩⟩
  · obtain ⟨t, he, -, hx, hrest⟩ := writesVx_of_exec (exec_or x y s) (by simp)
    exact ⟨t, he, fun b => by rw [hx, BitVec.getLsbD_or], hrest⟩
  · obtain ⟨t, he, -, hx, hrest⟩ := writesVx_of_exec (exec_and x y s) (by simp)
    exact ⟨t, he, fun b => by rw [hx, BitVec.getLsbD_and], hrest⟩
  · obtain ⟨t, he, -, hx, hrest⟩ := writesVx_of_exec (exec_xor x y s) (by simp)
    exact ⟨t, he, fun b => by rw [hx, BitVec.getLsbD_xor], hrest⟩

/-- A flag taken from bit i is that bit as a number. -/
theorem flagByte_getLsbD_toNat (b : Byte) (i : Nat) : (flagByte (b.getLsbD i)).toNat = b.toNat / 2 ^ i % 2 := by
  rw [← Nat.toNat_testBit, BitVec.testBit_toNat]
  cases b.getLsbD i <;> rfl

/-- Settles O34: a flagged write of the shifted Vx whose flag is the bit shifted out. -/
theorem shiftsMoveOneBitThenFlag : Obligations.ShiftsMoveOneBitThenFlag := by
  refine ⟨encodedBy_of_decodeAlu (n := 0x6) (by decide) fun w hn => by simp only [decodeAlu, hn],
    encodedBy_of_decodeAlu (n := 0xE) (by decide) fun w hn => by simp only [decodeAlu, hn], fun x y s => ⟨?_, ?_⟩⟩
  · obtain ⟨t, he, -, hx, hf, hrest⟩ := writesVxThenVF_of_exec (exec_shr x y s) (by simp)
    refine ⟨t, he, fun hne => ?_, ?_, hrest⟩
    · rw [hx hne, BitVec.toNat_ushiftRight, Nat.shiftRight_one]
    · rw [hf, outRight, flagByte_getLsbD_toNat, Nat.pow_zero, Nat.div_one]
  · obtain ⟨t, he, -, hx, hf, hrest⟩ := writesVxThenVF_of_exec (exec_shl x y s) (by simp)
    refine ⟨t, he, fun hne => ?_, ?_, hrest⟩
    · rw [hx hne, BitVec.toNat_shiftLeft, Nat.shiftLeft_eq, Nat.pow_one]
    · have := (s.readV x).isLt
      rw [hf, outLeft, flagByte_getLsbD_toNat]; omega

/-! ## The glyph address and the draw (R142, R151) -/

theorem glyphAddr_toNat (b : Byte) : (glyphAddr b).toNat = b.toNat * 5 := by
  have := b.isLt
  rw [glyphAddr, BitVec.toNat_ofNat]; omega

/-- Settles O36: the product of a byte and 5 fits I. -/
theorem glyphAddressIsTimesFive : Obligations.GlyphAddressIsTimesFive := by
  refine ⟨encodedBy_of_decodeMisc (sel := 0x29) (by decide) fun w hsel => by simp only [decodeMisc, hsel],
    fun x s => ?_⟩
  obtain ⟨t, he, -, hi, hrest⟩ := writesI_of_exec (exec_ldFVx x s) (by simp)
  exact ⟨t, he, hi.trans (glyphAddr_toNat _), hrest⟩

theorem and_and_not_eq_zero (a m : Byte) : a &&& m &&& ~~~m = 0 := by
  rw [BitVec.and_assoc, BitVec.and_not_self]
  exact BitVec.and_zero

/-- Settles O43: the draw is the byte of the present draw count, whatever it is. -/
theorem randomIsMaskedDraw : Obligations.RandomIsMaskedDraw := by
  refine ⟨encodedBy_of_opField (op := 0xC) (by decide) fun _ => decode_rnd,
    fun s => ⟨Config.drawByte s.draws, fun x nn => ?_⟩⟩
  have hx : (s.setV x (Config.drawByte s.draws &&& nn)).countDraw.toNext.readV x = Config.drawByte s.draws &&& nn :=
    readV_setV_same s x _
  exact ⟨_, exec_rnd x nn s, hx, by rw [hx, and_and_not_eq_zero], regsExcept_setV s x _, rfl, rfl,
    ((frame_setV s x _).trans (frame_countDraw _)).trans (frame_toNext _)⟩

/-! ## The key wait (R163) -/

theorem keyByte_toNat (k : Fin 16) : (keyByte k).toNat = k.val := by
  rw [keyByte, BitVec.toNat_ofNat]; omega

/-- Settles O47: the three cases of the key wait. -/
theorem keyWaitCases : Obligations.KeyWaitCases := by
  refine ⟨encodedBy_of_decodeMisc (sel := 0x0A) (by decide) fun w hsel => by simp only [decodeMisc, hsel],
    fun x s => ⟨fun hw => ?_, fun y l hy hw => ?_, exec_ldVxK_blocked, fun k hw => ?_⟩⟩
  · exact ⟨_, exec_ldVxK_start fun l hl => (nomatch hw.symm.trans hl), rfl, frame_setWait s _⟩
  · refine ⟨_, exec_ldVxK_start fun l' hl' => ?_, rfl, frame_setWait s _⟩
    cases hw.symm.trans hl'
    exact hy rfl
  · refine ⟨_, exec_ldVxK_deliver hw, ?_, regsExcept_setV s x _, rfl, rfl,
      ((frame_setV s x _).trans (frame_setWait _ _)).trans (frame_toNext _)⟩
    exact (congrArg BitVec.toNat (readV_setV_same s x _)).trans (keyByte_toNat k)

end Sys2Proof.Machine
end

section
/-! SUPPORT. The block transfers Fx33, Fx55 and Fx65 (43_index_and_memory.md R143 to R145, 20_memory.md R64): the proofs
of the statements about them. -/

namespace Sys2Proof.Machine

theorem dataLoc_lt (s : State) (k : Nat) : dataLoc s k < 4096 := Nat.mod_lt _ (by decide)

/-- The location of a byte depends on I alone. -/
theorem dataLoc_congr {s t : State} (h : t.i = s.i) (k : Nat) : dataLoc t k = dataLoc s k := by
  rw [dataLoc, dataLoc, h]

theorem rangeOk_congr {s t : State} {count : Nat} (hcfg : t.cfg = s.cfg) (hi : t.i = s.i) (h : RangeOk s count) :
    RangeOk t count := by
  rwa [RangeOk, hcfg, hi]

/-- What an instruction leaves that ends as a block store before NEXT. -/
theorem stores_of_exec {i : Instr} {s : State} {bytes : List Byte} {m : Memory}
    (h : exec i s = .next (s.setMem m).toNext) (hm : StoredAtI s bytes m) :
    ∃ t, exec i s = .next t ∧ (∀ k, (hk : k < bytes.length) → t.byteAt (dataLoc s k) = bytes[k]) ∧
      (∀ a, (∀ k, k < bytes.length → a ≠ dataLoc s k) → t.byteAt a = s.byteAt a) ∧
      t.pc = s.pc + 2 ∧ SameExcept [.mem, .pc] s t :=
  ⟨_, h, hm.landed, hm.elsewhere, rfl, (frame_setMem s m).trans (frame_toNext _)⟩

/-- A decimal digit of a byte fits a byte. -/
theorem byte_ofNat_toNat {n : Nat} (h : n < 256) : (BitVec.ofNat 8 n).toNat = n := by
  rw [BitVec.toNat_ofNat]; exact Nat.mod_eq_of_lt h

/-- Settles O37: a block store of the three digits. -/
theorem bcdStoresThreeDigits : Obligations.BcdStoresThreeDigits := by
  refine ⟨encodedBy_of_decodeMisc (sel := 0x33) (by decide) fun w hsel => by simp only [decodeMisc, hsel],
    fun x s hr => ?_, fun x s hr => raises_of_exec (exec_ldBVx_error hr)⟩
  obtain ⟨m, hm, hst⟩ := exec_ldBVx_ok (x := x) hr
  obtain ⟨t, he, hin, hrest⟩ := stores_of_exec hm hst
  have hx := (s.readV x).isLt
  refine ⟨t, he, ?_, ?_, ?_, hrest⟩
  · rw [hin 0 (by simp)]; exact byte_ofNat_toNat (by omega)
  · rw [hin 1 (by simp)]; exact byte_ofNat_toNat (by omega)
  · rw [hin 2 (by simp)]; exact byte_ofNat_toNat (by omega)

/-- Fx55 as a store of V0..Vx. -/
theorem exec_ldMemVx_stores {x : Reg} {s : State} (hr : RangeOk s (x.val + 1)) :
    ∃ t, exec (.ldMemVx x) s = .next t ∧ (∀ r : Reg, r.val ≤ x.val → t.byteAt (dataLoc s r.val) = s.readV r) ∧
      (∀ a, (∀ k, k ≤ x.val → a ≠ dataLoc s k) → t.byteAt a = s.byteAt a) ∧
      t.pc = s.pc + 2 ∧ SameExcept [.mem, .pc] s t := by
  obtain ⟨m, hm, hst⟩ := exec_ldMemVx_ok hr
  obtain ⟨t, he, hin, hout, hrest⟩ := stores_of_exec hm hst
  rw [regBlock_length] at hout
  refine ⟨t, he, fun r hrx => ?_, fun a ha => hout a fun k hk => ha k (Nat.le_of_lt_succ hk), hrest⟩
  rw [hin r.val (by rw [regBlock_length]; omega), regBlock_getElem]

/-- Settles O38: a block store of the registers up to Vx. -/
theorem registerStoreWritesBlock : Obligations.RegisterStoreWritesBlock :=
  ⟨encodedBy_of_decodeMisc (sel := 0x55) (by decide) fun w hsel => by simp only [decodeMisc, hsel],
    fun _ _ => exec_ldMemVx_stores, fun _ _ hr => raises_of_exec (exec_ldMemVx_error hr)⟩

/-- Fx65 as a load of V0..Vx. -/
theorem exec_ldVxMem_loads {x : Reg} {s : State} (hr : RangeOk s (x.val + 1)) :
    ∃ t, exec (.ldVxMem x) s = .next t ∧
      (∀ r : Reg, t.readV r = if r.val ≤ x.val then s.byteAt (dataLoc s r.val) else s.readV r) ∧
      t.pc = s.pc + 2 ∧ SameExcept [.v, .pc] s t := by
  refine ⟨_, exec_ldVxMem_ok hr, fun r => ?_, rfl, (frame_setRegs s _).trans (frame_toNext _)⟩
  rw [State.toNext_readV, readV_setRegs_loadRegs]
  simp only [Nat.lt_succ_iff]

/-- Settles O39: a block load of the registers up to Vx. -/
theorem registerLoadReadsBlock : Obligations.RegisterLoadReadsBlock :=
  ⟨encodedBy_of_decodeMisc (sel := 0x65) (by decide) fun w hsel => by simp only [decodeMisc, hsel],
    fun _ _ => exec_ldVxMem_loads, fun _ _ hr => raises_of_exec (exec_ldVxMem_error hr)⟩

/-- Settles O40: the load reads at the store's locations, where the stored registers still stand. -/
theorem storeThenLoadRestoresRegisters : Obligations.StoreThenLoadRestoresRegisters := by
  intro x s t u hr hstore hcfg hi hbytes
  obtain ⟨t', he, hin, -, -, hframe⟩ := exec_ldMemVx_stores hr
  obtain rfl := exec_det hstore he
  have hi' : u.i = s.i := hi.trans (hframe .i (by decide))
  have hcfg' : u.cfg = s.cfg := hcfg.trans (hframe .cfg (by decide))
  obtain ⟨r, hload, hregs, -, -⟩ := exec_ldVxMem_loads (rangeOk_congr hcfg' hi' hr)
  refine ⟨r, hload, fun j hj => ?_⟩
  rw [hregs j, if_pos hj, dataLoc_congr hi', hbytes j.val hj, hin j hj]

/-- Settles O41: the fetch reads the two bytes where they landed. -/
theorem storedCodeIsFetched : Obligations.StoredCodeIsFetched := by
  intro x s t p hr hstore r r' hrx hrx' hp hp'
  obtain ⟨t', he, hin, -⟩ := exec_ldMemVx_stores hr
  obtain rfl := exec_det hstore he
  have hlt := dataLoc_lt s r'.val
  rw [fetchWord_ok (by omega), hp', hp, hin r hrx, hin r' hrx']

end Sys2Proof.Machine
end

section
/-! SUPPORT. The sprite draw Dxyn (44_display_and_random.md R152). A draw plots a list of pixels without repetition, so
that each pixel of the list is flipped exactly once; the list holds the pixels the sprite covers. With the proofs of the
two statements about the draw. -/

namespace Sys2Proof.Machine

/-! ## A draw as a list of pixels -/

/-- A pixel by its column and its row. -/
abbrev Pixel := Fin 64 × Fin 32

def plotPixel (cv : Canvas) (p : Pixel) : Canvas :=
  { disp := flipPixel cv.disp p.1 p.2, collision := cv.collision || pixelAt cv.disp p.1 p.2 }

/-- The pixels of one sprite row b with its column 0 at (x, y). -/
def rowPixels (order : SpriteBitOrder) (b : Byte) (x y : Nat) : List Pixel :=
  ((List.range 8).filter (spriteBit order b)).map fun c => (Fin.ofNat 64 (x + c), Fin.ofNat 32 y)

/-- The pixels of the sprite rows from row y down. -/
def spritePixels (order : SpriteBitOrder) (x y : Nat) : List Byte → List Pixel
  | [] => []
  | b :: bs => rowPixels order b x y ++ spritePixels order x (y + 1) bs

theorem plotRow_eq_foldl (order : SpriteBitOrder) (b : Byte) (x y : Nat) (cv : Canvas) :
    plotRow order b x y cv = (rowPixels order b x y).foldl plotPixel cv := by
  rw [rowPixels, List.foldl_map, List.foldl_filter]
  rfl

theorem plotRows_eq_foldl (order : SpriteBitOrder) (x y : Nat) (bs : List Byte) (cv : Canvas) :
    plotRows order x y bs cv = (spritePixels order x y bs).foldl plotPixel cv := by
  induction bs generalizing y cv with
  | nil => rfl
  | cons b bs ih => rw [plotRows, ih, plotRow_eq_foldl, spritePixels, List.foldl_append]

theorem mem_rowPixels {order : SpriteBitOrder} {b : Byte} {x y : Nat} {p : Pixel} :
    p ∈ rowPixels order b x y ↔
      ∃ c, c < 8 ∧ p.1.val = (x + c) % 64 ∧ p.2.val = y % 32 ∧ spriteBit order b c = true := by
  simp only [rowPixels, List.mem_map, List.mem_filter, List.mem_range, Prod.ext_iff, Fin.ext_iff, Fin.val_ofNat]
  constructor
  · rintro ⟨c, ⟨hc, hbit⟩, hx, hy⟩
    exact ⟨c, hc, hx.symm, hy.symm, hbit⟩
  · rintro ⟨c, hc, hx, hy, hbit⟩
    exact ⟨c, ⟨hc, hbit⟩, hx.symm, hy.symm⟩

theorem mem_spritePixels {order : SpriteBitOrder} {x y : Nat} {bs : List Byte} {p : Pixel} :
    p ∈ spritePixels order x y bs ↔ ∃ r c, ∃ hr : r < bs.length, c < 8 ∧ p.1.val = (x + c) % 64 ∧
      p.2.val = (y + r) % 32 ∧ spriteBit order bs[r] c = true := by
  induction bs generalizing y with
  | nil => simp [spritePixels]
  | cons b bs ih =>
    rw [spritePixels, List.mem_append, mem_rowPixels, ih]
    constructor
    · rintro (⟨c, hc, hx, hy, hbit⟩ | ⟨r, c, hr, hc, hx, hy, hbit⟩)
      · exact ⟨0, c, Nat.succ_pos _, hc, hx, hy, hbit⟩
      · exact ⟨r + 1, c, Nat.succ_lt_succ hr, hc, hx, by rw [hy]; congr 1; omega, hbit⟩
    · rintro ⟨_ | r, c, hr, hc, hx, hy, hbit⟩
      · exact .inl ⟨c, hc, hx, hy, hbit⟩
      · exact .inr ⟨r, c, Nat.lt_of_succ_lt_succ hr, hc, hx, by rw [hy]; congr 1; omega, hbit⟩

/-- Eight columns do not wrap onto each other. -/
theorem nodup_rowPixels (order : SpriteBitOrder) (b : Byte) (x y : Nat) : (rowPixels order b x y).Nodup := by
  refine List.Nodup.map_on (fun c hc c' hc' h => ?_) (List.nodup_range.filter _)
  rw [List.mem_filter, List.mem_range] at hc hc'
  have hx : (x + c) % 64 = (x + c') % 64 := congrArg (fun p : Pixel => p.1.val) h
  omega

/-- Up to 32 rows do not wrap onto each other. -/
theorem nodup_spritePixels (order : SpriteBitOrder) (x y : Nat) (bs : List Byte) (hl : bs.length ≤ 32) :
    (spritePixels order x y bs).Nodup := by
  induction bs generalizing y with
  | nil => exact List.nodup_nil
  | cons b bs ih =>
    rw [List.length_cons] at hl
    refine List.Nodup.append (nodup_rowPixels order b x y) (ih (y + 1) (by omega)) fun p hp hp' => ?_
    obtain ⟨c, -, -, hy, -⟩ := mem_rowPixels.1 hp
    obtain ⟨r, c', hr, -, -, hy', -⟩ := mem_spritePixels.1 hp'
    omega

/-! ## Plotting a list of pixels -/

theorem pixelAt_plotPixel (cv : Canvas) (p q : Pixel) : pixelAt (plotPixel cv p).disp q.1 q.2 =
    if q = p then !pixelAt cv.disp q.1 q.2 else pixelAt cv.disp q.1 q.2 := by
  rw [plotPixel, pixelAt_flipPixel]
  by_cases h : q = p
  · subst h; simp
  · rw [if_neg h, if_neg fun h' => h (Prod.ext h'.1 h'.2)]

/-- Each pixel of a list without repetition is flipped once, and no other pixel. -/
theorem pixelAt_foldl_plotPixel (l : List Pixel) (cv : Canvas) (hl : l.Nodup) (q : Pixel) :
    pixelAt (l.foldl plotPixel cv).disp q.1 q.2 =
      if q ∈ l then !pixelAt cv.disp q.1 q.2 else pixelAt cv.disp q.1 q.2 := by
  induction l generalizing cv with
  | nil => rfl
  | cons p l ih =>
    obtain ⟨hp, hl⟩ := List.nodup_cons.1 hl
    rw [List.foldl_cons, ih _ hl, pixelAt_plotPixel]
    by_cases hq : q = p
    · subst hq
      rw [if_neg hp, if_pos rfl, if_pos List.mem_cons_self]
    · simp only [List.mem_cons, hq, false_or, if_false]

/-- A pixel has its first value until it is plotted, so a collision is a pixel of the list that was set at first. -/
theorem collision_foldl_plotPixel (l : List Pixel) (cv : Canvas) (hl : l.Nodup) :
    (l.foldl plotPixel cv).collision = true ↔
      cv.collision = true ∨ ∃ q ∈ l, pixelAt cv.disp q.1 q.2 = true := by
  induction l generalizing cv with
  | nil => simp
  | cons p l ih =>
    obtain ⟨hp, hl⟩ := List.nodup_cons.1 hl
    have kept : ∀ q ∈ l, pixelAt (plotPixel cv p).disp q.1 q.2 = pixelAt cv.disp q.1 q.2 := fun q hq => by
      rw [pixelAt_plotPixel, if_neg (ne_of_mem_of_not_mem hq hp)]
    have hfirst : (plotPixel cv p).collision = true ↔ cv.collision = true ∨ pixelAt cv.disp p.1 p.2 = true :=
      Bool.or_eq_true_iff
    rw [List.foldl_cons, ih _ hl, hfirst, or_assoc]
    simp only [List.exists_mem_cons_iff]
    refine or_congr_right (or_congr_right ?_)
    exact exists_congr fun q => and_congr_right fun hq => by rw [kept q hq]

/-! ## The draw -/

/-- The pixels the n-row sprite at I covers at (Vx, Vy). -/
def drawnPixels (s : State) (x y : Reg) (n : Nat) : List Pixel :=
  spritePixels s.cfg.spriteOrder (s.readV x).toNat (s.readV y).toNat (dataBytes s n)

theorem mem_drawnPixels {s : State} {x y : Reg} {n : Nat} (px : Fin 64) (py : Fin 32) :
    (px, py) ∈ drawnPixels s x y n ↔ spriteCovers s (s.readV x).toNat (s.readV y).toNat n px py := by
  simp only [drawnPixels, mem_spritePixels, dataBytes_length, dataBytes_getElem, exists_prop, spriteCovers]

theorem drawn_eq_foldl (s : State) (x y : Reg) (n : Nat) :
    drawn s x y n = (drawnPixels s x y n).foldl plotPixel ⟨s.disp, false⟩ := plotRows_eq_foldl _ _ _ _ _

theorem nodup_drawnPixels (s : State) (x y : Reg) {n : Nat} (hn : n ≤ 15) : (drawnPixels s x y n).Nodup :=
  nodup_spritePixels _ _ _ _ (by rw [dataBytes_length]; omega)

theorem drawn_pixelAt (s : State) (x y : Reg) {n : Nat} (hn : n ≤ 15) (px : Fin 64) (py : Fin 32) :
    pixelAt (drawn s x y n).disp px py =
      if (px, py) ∈ drawnPixels s x y n then !pixelAt s.disp px py else pixelAt s.disp px py := by
  rw [drawn_eq_foldl]
  exact pixelAt_foldl_plotPixel _ _ (nodup_drawnPixels s x y hn) (px, py)

theorem drawn_collision (s : State) (x y : Reg) {n : Nat} (hn : n ≤ 15) : (drawn s x y n).collision = true ↔
    ∃ px py, spriteCovers s (s.readV x).toNat (s.readV y).toNat n px py ∧ pixelAt s.disp px py = true := by
  rw [drawn_eq_foldl, collision_foldl_plotPixel _ _ (nodup_drawnPixels s x y hn)]
  simp only [Bool.false_eq_true, false_or, Prod.exists, mem_drawnPixels]

theorem flagByte_eq_one_iff (c : Bool) : flagByte c = 1 ↔ c = true := by cases c <;> decide

theorem flagByte_zero_or_one (c : Bool) : flagByte c = 0 ∨ flagByte c = 1 := by cases c <;> decide

/-- What a draw whose range raises nothing leaves. -/
structure Draws (s : State) (x y : Reg) (n : Nat) (t : State) : Prop where
  covered : ∀ px py, spriteCovers s (s.readV x).toNat (s.readV y).toNat n px py →
    pixelAt t.disp px py = !pixelAt s.disp px py
  uncovered : ∀ px py, ¬ spriteCovers s (s.readV x).toNat (s.readV y).toNat n px py →
    pixelAt t.disp px py = pixelAt s.disp px py
  flag : t.readV regVF = 0 ∨ t.readV regVF = 1
  collision : t.readV regVF = 1 ↔ ∃ px py, spriteCovers s (s.readV x).toNat (s.readV y).toNat n px py ∧
    pixelAt s.disp px py = true
  regs : RegsExcept [regVF] s t
  pc : t.pc = s.pc + 2
  frame : SameExcept [.disp, .v, .pc] s t

theorem exec_drw_draws {x y : Reg} {n : Nat} {s : State} (hn : n ≤ 15) (hr : RangeOk s n) :
    ∃ t, exec (.drw x y n) s = .next t ∧ Draws s x y n t := by
  refine ⟨_, exec_drw_ok hr, ?_⟩
  have hvf := readV_setV_same (s.setDisp (drawn s x y n).disp) regVF (flagByte (drawn s x y n).collision)
  exact {
    covered := fun px py h => (drawn_pixelAt s x y hn px py).trans (if_pos ((mem_drawnPixels px py).2 h))
    uncovered := fun px py h => (drawn_pixelAt s x y hn px py).trans (if_neg (mt (mem_drawnPixels px py).1 h))
    flag := by rw [State.toNext_readV, hvf]; exact flagByte_zero_or_one _
    collision := by rw [State.toNext_readV, hvf, flagByte_eq_one_iff, drawn_collision s x y hn]
    regs := regsExcept_setV (s.setDisp _) _ _
    pc := rfl
    frame := ((frame_setDisp s _).trans (frame_setV _ _ _)).trans (frame_toNext _) }

/-- Settles O44: the plotted pixels are those the sprite covers, each flipped once. -/
theorem drawFlipsCoveredPixels : Obligations.DrawFlipsCoveredPixels := by
  refine ⟨encodedBy_of_opField (op := 0xD) (by decide) fun _ => decode_drw, fun x y n s hn hr => ?_,
    fun x y n s _ hr => raises_of_exec (exec_drw_error hr)⟩
  obtain ⟨t, he, hd⟩ := exec_drw_draws (x := x) (y := y) hn hr
  exact ⟨t, he, hd.covered, hd.uncovered, hd.flag, hd.collision, hd.regs, hd.pc, hd.frame⟩

/-! ## The same draw twice -/

/-- What a sprite covers depends on the bytes at I, the bit order and the place modulo the size of the display. -/
theorem spriteCovers_congr {s t : State} {vx vy vx' vy' n : Nat} (hcfg : t.cfg = s.cfg) (hi : t.i = s.i)
    (hmem : ∀ a, t.byteAt a = s.byteAt a) (hx : vx' % 64 = vx % 64) (hy : vy' % 32 = vy % 32) (px : Fin 64)
    (py : Fin 32) : spriteCovers t vx' vy' n px py ↔ spriteCovers s vx vy n px py := by
  have hcol (c : Nat) : (vx' + c) % 64 = (vx + c) % 64 := Nat.ModEq.add_right c hx
  have hrow (r : Nat) : (vy' + r) % 32 = (vy + r) % 32 := Nat.ModEq.add_right r hy
  simp only [spriteCovers, hcol, hrow, hcfg, hmem, dataLoc_congr hi]

/-- A byte is nonzero exactly when one of its eight columns is set, in either order. -/
theorem ne_zero_iff_spriteBit (order : SpriteBitOrder) (b : Byte) :
    b ≠ 0 ↔ ∃ c, c < 8 ∧ spriteBit order b c = true := by
  have hbits : b ≠ 0 ↔ ∃ c, c < 8 ∧ b.getLsbD c = true := by
    rw [← not_iff_not, not_not, BitVec.eq_of_getLsbD_eq_iff]
    simp
  rw [hbits]
  cases order with
  | lsbFirst => rfl
  | msbFirst =>
    constructor
    · rintro ⟨c, hc, hb⟩
      exact ⟨7 - c, by omega, by rwa [spriteBit, show 7 - (7 - c) = c by omega]⟩
    · rintro ⟨c, hc, hb⟩
      exact ⟨7 - c, by omega, hb⟩

/-- A sprite covers some pixel exactly when one of its rows is nonzero. -/
theorem exists_spriteCovers_iff (s : State) (vx vy n : Nat) :
    (∃ px py, spriteCovers s vx vy n px py) ↔ ∃ r, r < n ∧ s.byteAt (dataLoc s r) ≠ 0 := by
  simp only [ne_zero_iff_spriteBit s.cfg.spriteOrder]
  constructor
  · rintro ⟨-, -, r, c, hr, hc, -, -, hbit⟩
    exact ⟨r, hr, c, hc, hbit⟩
  · rintro ⟨r, hr, c, hc, hbit⟩
    exact ⟨Fin.ofNat 64 (vx + c), Fin.ofNat 32 (vy + r), r, c, hr, hc, rfl, rfl, hbit⟩

/-- Settles O45: both draws cover the same pixels, so each covered pixel is flipped back, and the second draw meets what
the first left. -/
theorem drawTwiceRestoresDisplay : Obligations.DrawTwiceRestoresDisplay := by
  intro x y x' y' n s t u hn hr hst hx hy htu
  obtain ⟨t', he, ht⟩ := exec_drw_draws (x := x) (y := y) hn hr
  obtain rfl := exec_det hst he
  have hcfg : t.cfg = s.cfg := ht.frame .cfg (by decide)
  have hi : t.i = s.i := ht.frame .i (by decide)
  have hmem : ∀ a, t.byteAt a = s.byteAt a := ht.frame .mem (by decide)
  obtain ⟨u', he', hu⟩ := exec_drw_draws (x := x') (y := y') hn (rangeOk_congr hcfg hi hr)
  obtain rfl := exec_det htu he'
  have hcov := spriteCovers_congr (n := n) hcfg hi hmem hx hy
  have hsecond : u.readV regVF = 1 ↔ ∃ px py, spriteCovers s (s.readV x).toNat (s.readV y).toNat n px py ∧
      pixelAt s.disp px py = false := by
    rw [hu.collision]
    refine exists_congr fun px => exists_congr fun py => ?_
    rw [hcov]
    exact and_congr_right fun h => by rw [ht.covered px py h, Bool.not_eq_true']
  refine ⟨fun px py => ?_, hsecond, fun hblank => ⟨?_, ?_⟩⟩
  · by_cases h : spriteCovers s (s.readV x).toNat (s.readV y).toNat n px py
    · rw [hu.covered px py ((hcov px py).2 h), ht.covered px py h, Bool.not_not]
    · rw [hu.uncovered px py (mt (hcov px py).1 h), ht.uncovered px py h]
  · refine ht.flag.resolve_right fun h1 => ?_
    obtain ⟨px, py, -, hset⟩ := ht.collision.1 h1
    rw [hblank px py] at hset; cases hset
  · rw [show (0xF : Reg) = regVF from rfl, hsecond, ← exists_spriteCovers_iff s (s.readV x).toNat (s.readV y).toNat n]
    simp only [hblank, and_true]

end Sys2Proof.Machine
end

section
/-! SUPPORT. Whole key waits and the ends of a run (45_timers_and_input.md R163, R167, 60_exceptions.md R198,
70_reset_and_hazards.md R215): the proofs of the three statements about them. -/

namespace Sys2Proof.Machine

/-! ## Key events in a row -/

theorem setKeyState_key (k : Fin 16) (pressed : Bool) (s : State) :
    (setKeyState k pressed s).key = s.key.set k.val pressed := by
  rw [setKeyState_eq]; rfl

/-- The latch after key events depends on the latch before them alone. -/
theorem keyEvents_key_congr (events : List (Fin 16 × Bool)) {s t : State} (h : s.key = t.key) :
    (keyEvents events s).key = (keyEvents events t).key := by
  induction events generalizing s t with
  | nil => exact h
  | cons e es ih => exact ih (by simp only [setKeyState_key, h])

/-- Key events that keep this wait one by one keep it together. -/
theorem keyEvents_wait {events : List (Fin 16 × Bool)} {s : State}
    (h : ∀ e ∈ events, ∀ t : State, t.wait = s.wait → (setKeyState e.1 e.2 t).wait = s.wait) :
    (keyEvents events s).wait = s.wait :=
  List.foldlRecOn (motive := fun t : State => t.wait = s.wait) events _ rfl fun t ht e he => h e he t ht

/-- A release is no edge. -/
theorem keyEvents_wait_of_releases {events : List (Fin 16 × Bool)} (s : State) (h : ∀ e ∈ events, e.2 = false) :
    (keyEvents events s).wait = s.wait := by
  refine keyEvents_wait fun e he t ht => ?_
  rw [setKeyState_wait, h e he, Bool.false_and]
  exact ht

/-- The first edge is kept. -/
theorem keyEvents_wait_of_latched (events : List (Fin 16 × Bool)) {s : State} {x : Reg} {k : Fin 16}
    (h : s.wait = .awaiting x (some k)) : (keyEvents events s).wait = s.wait := by
  refine keyEvents_wait fun e _ t ht => ?_
  rw [setKeyState_wait, ht, latchEdge_of_ne (by simp [h]), ite_self]

/-! ## A machine at its key wait -/

theorem stepCycle_completes {s t : State} {w : Word} {i : Instr} (hs : s.fault = none) (hw : NextWord s w)
    (hd : decode w = .instr i) (he : exec i (discardStaleWait (.instr i) s) = .next t) (ht : t.fault = none) :
    stepCycle s = .next (t, completion i t) := by
  rw [stepCycle_instr hs hw hd, he, finish_completed ht]

theorem discardStaleWait_idle {s : State} (h : s.wait = .idle) (d : Decoded) : discardStaleWait d s = s := by
  simp only [discardStaleWait, h]

/-- Unhalted at pc, where an Fx0A of Vx stands, with the wait z. -/
structure AtKeyWait (x : Reg) (pc : Word) (z : Wait) (s : State) : Prop where
  unhalted : s.fault = none
  word : ∃ w, NextWord s w ∧ decode w = .instr (.ldVxK x)
  pc_eq : s.pc = pc
  wait_eq : s.wait = z

namespace AtKeyWait

variable {x : Reg} {pc : Word} {z : Wait} {s : State}

/-- A key event changes the wait at most. -/
theorem after_setKeyState (h : AtKeyWait x pc z s) (k : Fin 16) (p : Bool) :
    AtKeyWait x pc (setKeyState k p s).wait (setKeyState k p s) := by
  obtain ⟨w, hw, hd⟩ := h.word
  have hframe := frame_setKeyState k p s
  exact ⟨Eq.trans (hframe .fault (by decide)) h.unhalted, ⟨w, nextWord_setKeyState k p hw, hd⟩,
    Eq.trans (hframe .pc (by decide)) h.pc_eq, rfl⟩

theorem after_keyEvents (events : List (Fin 16 × Bool)) (h : AtKeyWait x pc z s) :
    AtKeyWait x pc (keyEvents events s).wait (keyEvents events s) := by
  induction events generalizing s z with
  | nil => exact ⟨h.unhalted, h.word, h.pc_eq, rfl⟩
  | cons e es ih => exact ih (h.after_setKeyState e.1 e.2)

/-- The first cycle starts the wait and blocks. -/
theorem starts (h : AtKeyWait x pc .idle s) : stepCycle s = .next (s.setWait (.awaiting x none), .blocked) := by
  obtain ⟨w, hw, hd⟩ := h.word
  have he : exec (.ldVxK x) (discardStaleWait (.instr (.ldVxK x)) s) = .next (s.setWait (.awaiting x none)) := by
    rw [discardStaleWait_idle h.wait_eq]
    exact exec_ldVxK_start fun l hl => nomatch h.wait_eq.symm.trans hl
  exact stepCycle_completes h.unhalted hw hd he h.unhalted

/-- A wait without a key blocks and changes nothing. -/
theorem blocks (h : AtKeyWait x pc (.awaiting x none) s) : stepCycle s = .next (s, .blocked) := by
  obtain ⟨w, hw, hd⟩ := h.word
  have he : exec (.ldVxK x) (discardStaleWait (.instr (.ldVxK x)) s) = .next s := by
    rw [discardStaleWait_own h.wait_eq, exec_ldVxK_blocked h.wait_eq]
  have hcycle := stepCycle_completes h.unhalted hw hd he h.unhalted
  rwa [completion_ldVxK, h.wait_eq, if_neg nofun] at hcycle

/-- A wait with a key delivers it and ends. -/
theorem delivers {k : Fin 16} (h : AtKeyWait x pc (.awaiting x (some k)) s) :
    ∃ t, stepCycle s = .next (t, .advanced) ∧ (t.readV x).toNat = k.val ∧ t.pc = pc + 2 ∧ t.wait = .idle := by
  obtain ⟨w, hw, hd⟩ := h.word
  have he : exec (.ldVxK x) (discardStaleWait (.instr (.ldVxK x)) s) =
      .next ((s.setV x (keyByte k)).setWait .idle).toNext := by
    rw [discardStaleWait_own h.wait_eq, exec_ldVxK_deliver h.wait_eq]
  exact ⟨_, stepCycle_completes h.unhalted hw hd he h.unhalted,
    (congrArg BitVec.toNat (readV_setV_same s x _)).trans (keyByte_toNat k), congrArg (· + 2) h.pc_eq, rfl⟩

end AtKeyWait

/-- Settles O48: the first cycle starts the wait, releases keep it without a key, the press latches one, and the next
cycle delivers it. -/
theorem keyWaitEndsAtFirstEdge : Obligations.KeyWaitEndsAtFirstEdge := by
  intro s w x k quiet later hs hidle hw hd hquiet hk
  have h0 : AtKeyWait x s.pc .idle s := ⟨hs, ⟨w, hw, hd⟩, rfl, hidle⟩
  have h1 : AtKeyWait x s.pc (.awaiting x none) (s.setWait (.awaiting x none)) := ⟨hs, ⟨w, hw, hd⟩, rfl, rfl⟩
  have h2 := h1.after_keyEvents quiet
  rw [keyEvents_wait_of_releases _ hquiet] at h2
  have hk2 : (keyEvents quiet (s.setWait (.awaiting x none))).keyAt k = false := by
    rw [State.keyAt, keyEvents_key_congr quiet (State.setWait_key s _)]
    exact hk
  have hlatched : (setKeyState k true (keyEvents quiet (s.setWait (.awaiting x none)))).wait =
      .awaiting x (some k) := by
    rw [setKeyState_wait, hk2, h2.wait_eq]; rfl
  have h4 := (h2.after_setKeyState k true).after_keyEvents later
  rw [keyEvents_wait_of_latched later hlatched, hlatched] at h4
  obtain ⟨t, hcycle, hx, hpc, hwait⟩ := h4.delivers
  exact ⟨_, _, t, h0.starts, h2.blocks, rfl, hcycle, hx, hpc, hwait⟩

/-! ## The ends of a run (R198) -/

/-- Settles O59: a jump to itself, a recorded fault and a wait without a key each give the state back. -/
theorem endStatesAreStable : Obligations.EndStatesAreStable := by
  refine ⟨?_, fun s k hs => stepCycle_halted hs, ?_⟩
  · rintro s ⟨hs, hidle, w, nnn, hw, hd, hnnn⟩
    have hpc : zextAddr nnn = s.pc := BitVec.eq_of_toNat_eq ((zextAddr_toNat nnn).trans hnnn)
    have he : exec (.jp nnn) (discardStaleWait (.instr (.jp nnn)) s) = .next s := by
      rw [discardStaleWait_idle hidle, exec_jp, hpc]
      rfl
    exact stepCycle_completes hs hw hd he hs
  · rintro s x ⟨hwait, w, hw, hd⟩
    have hblocked (hs : s.fault = none) := AtKeyWait.blocks ⟨hs, ⟨w, hw, hd⟩, rfl, hwait⟩
    refine ⟨?_, hblocked⟩
    cases hs : s.fault with
    | none => exact step_of_stepCycle (hblocked hs)
    | some k => exact step_of_stepCycle (stepCycle_halted hs)

/-! ## A reset with no load (R215) -/

theorem decode_0x0000 : decode 0x0000 = .unknown 0x0000 := by decide

/-- Above the font every word of an empty memory is 0x0000. -/
theorem nextWord_resetCore (s : State) {p : Word} (h : 80 ≤ p.toNat) (h' : p.toNat < 0xFFF) :
    NextWord ((resetCore s).setPc p) 0x0000 := by
  rw [NextWord, State.setPc_pc, fetchWord_ok h']
  simp only [State.setPc_byteAt, resetCore_eq, State.atReset_byteAt, resetByte_zero _ h,
    resetByte_zero _ (Nat.le_succ_of_le h)]
  rfl

theorem stepCycle_resetCore (s : State) {p : Word} (h : 80 ≤ p.toNat) (h' : p.toNat < 0xFFF) :
    stepCycle ((resetCore s).setPc p) = .next ((resetCore s).setPc (p + 2), .unknownOpcode 0x0000) := by
  rw [stepCycle_unknown rfl (nextWord_resetCore s h h') decode_0x0000, discardStaleWait_unknown]
  rfl

/-- The k-th address of the run. -/
def sweepPc (k : Nat) : Word := BitVec.ofNat 16 (0x200 + 2 * k)

theorem sweepPc_toNat {k : Nat} (h : k ≤ 1792) : (sweepPc k).toNat = 0x200 + 2 * k := by
  rw [sweepPc, BitVec.toNat_ofNat]; omega

theorem sweepPc_succ (k : Nat) : sweepPc k + 2 = sweepPc (k + 1) := by
  rw [sweepPc, sweepPc, show (2 : Word) = BitVec.ofNat 16 2 from rfl, ← BitVec.ofNat_add]
  congr 1

theorem stepCycle_sweep (s : State) {k : Nat} (h : k < 1792) : stepCycle ((resetCore s).setPc (sweepPc k)) =
    .next ((resetCore s).setPc (sweepPc (k + 1)), .unknownOpcode 0x0000) := by
  have hk := sweepPc_toNat (Nat.le_of_lt h)
  rw [stepCycle_resetCore s (by omega) (by omega), sweepPc_succ]

theorem run_succ {M : Host.Core} {s s' : M.State} (h : M.step s = .next s') (k : Nat) :
    M.run (k + 1) s = M.run k s' := by
  simp only [Host.Core.run, h]

theorem run_sweep (s : State) (k j : Nat) (h : j + k ≤ 1792) :
    Host.Core.run core k ((resetCore s).setPc (sweepPc j)) = .next ((resetCore s).setPc (sweepPc (j + k))) := by
  induction k generalizing j with
  | zero => rfl
  | succ k ih =>
    have hstep : core.step ((resetCore s).setPc (sweepPc j)) = .next ((resetCore s).setPc (sweepPc (j + 1))) :=
      step_of_stepCycle (stepCycle_sweep s (by omega))
    exact (run_succ hstep k).trans ((ih (j + 1) (by omega)).trans (by rw [Nat.succ_add_eq_add_succ]))

/-- Settles O58: each of the 1792 words is the Unknown 0x0000, and 0x1000 cannot be fetched. -/
theorem emptyMemoryRunsToTheEnd : Obligations.EmptyMemoryRunsToTheEnd := by
  refine fun s => ⟨fun k hk => ?_, fun k hk => ⟨_, stepCycle_sweep s hk⟩, ?_⟩
  · have h := run_sweep s k 0 (by omega)
    rwa [Nat.zero_add] at h
  · exact ⟨_, stepCycle_fetchFault rfl (fetchWord_error (show 0xFFF ≤ (0x1000 : Word).toNat by decide))⟩

end Sys2Proof.Machine
end

section
/-! SUPPORT. What a cycle does not read (10_state.md R28, R29, R39): a relation of states that every instruction keeps
and that fixes what the cycle itself reads is kept by the cycle, with the same outcome. The sound timer and the unused
stack entries give two such relations. With the proofs of the two statements. -/

namespace Sys2Proof.Machine

/-! ## Simulation of a cycle -/

/-- A relation of states that no part of the cycle can tell apart. -/
structure CycleSimulation (R : State → State → Prop) : Prop where
  fault : ∀ {s s'}, R s s' → s'.fault = s.fault
  fetch : ∀ {s s'}, R s s' → fetchWord s' s'.pc = fetchWord s s.pc
  wait : ∀ {s s'}, R s s' → s'.wait = s.wait
  setWait : ∀ {s s'}, R s s' → ∀ z, R (s.setWait z) (s'.setWait z)
  toNext : ∀ {s s'}, R s s' → R s.toNext s'.toNext
  raise : ∀ {s s'}, R s s' → ∀ k, R (raise k s) (raise k s')
  exec : ∀ {s s' i t}, R s s' → exec i s = .next t → ∃ t', exec i s' = .next t' ∧ R t t'

/-- What the discard leaves of a wait (decision D8). -/
def keptWait (d : Decoded) : Wait → Wait
  | .idle => .idle
  | .awaiting x l => if d = .instr (.ldVxK x) then .awaiting x l else .idle

theorem discardStaleWait_eq_keptWait (d : Decoded) (s : State) :
    discardStaleWait d s = s.setWait (keptWait d s.wait) := by
  unfold discardStaleWait
  split
  · next h => rw [h]; exact (setWait_of_wait_eq h).symm
  · next x l h =>
    rw [h, keptWait]
    split
    · exact (setWait_of_wait_eq h).symm
    · rfl

theorem completion_congr (i : Instr) {t t' : State} (h : t'.wait = t.wait) : completion i t' = completion i t := by
  simp only [completion, h]

section Simulation

variable {R : State → State → Prop} (hR : CycleSimulation R)
include hR

theorem CycleSimulation.discard (d : Decoded) {s s' : State} (h : R s s') :
    R (discardStaleWait d s) (discardStaleWait d s') := by
  rw [discardStaleWait_eq_keptWait, discardStaleWait_eq_keptWait, hR.wait h]
  exact hR.setWait h _

theorem CycleSimulation.stepCycle {s s' t : State} {o : CycleOutcome} (h : R s s')
    (hc : stepCycle s = .next (t, o)) : ∃ t', stepCycle s' = .next (t', o) ∧ R t t' := by
  have hfault := hR.fault h
  have hfetch := hR.fetch h
  rcases stepCycle_cases hc with ⟨k, hk, rfl, rfl⟩ | ⟨k, hs, hf, rfl, rfl⟩ | ⟨w, v, hs, hw, hd, rfl, rfl⟩ |
    ⟨w, i, u, hs, hw, hd, he, hend⟩
  · exact ⟨s', stepCycle_halted (hfault.trans hk), h⟩
  · exact ⟨_, stepCycle_fetchFault (hfault.trans hs) (hfetch.trans hf), hR.raise h k⟩
  · exact ⟨_, stepCycle_unknown (hfault.trans hs) (hfetch.trans hw) hd, hR.toNext (hR.discard _ h)⟩
  · obtain ⟨u', he', hu⟩ := hR.exec (hR.discard (.instr i) h) he
    have hcycle := stepCycle_instr (hfault.trans hs) (hfetch.trans hw) hd
    rw [he'] at hcycle
    rcases hend with ⟨k, hk, rfl, rfl⟩ | ⟨ht, rfl, rfl⟩
    · exact ⟨_, hcycle.trans (finish_raised ((hR.fault hu).trans hk)), hR.raise h k⟩
    · rw [finish_completed ((hR.fault hu).trans ht), completion_congr i (hR.wait hu)] at hcycle
      exact ⟨u', hcycle, hu⟩

end Simulation

/-! ## Replacing the sound timer and the stack

Every instruction but Fx18, 2nnn and 00EE commutes with replacing ST, the stack entries and sp. -/

/-- s with another sound timer and another stack. -/
def State.replace (s : State) (b : Byte) (k : Vector Word 16) (p : Fin 17) : State := (s.setSt b).setStack k p

section Replace

variable (b : Byte) (k : Vector Word 16) (p : Fin 17)

theorem skipIf_replace (s : State) (c : Bool) : (s.replace b k p).skipIf c = (s.skipIf c).replace b k p := by
  cases c <;> rfl

theorem memWrite_replace (s : State) (a : Nat) (v : Byte) :
    memWrite (s.replace b k p) a v = (memWrite s a v).map (·.replace b k p) := by
  unfold memWrite
  rw [show (s.replace b k p).cfg = s.cfg from rfl]
  cases dataLocation s.cfg a <;> rfl

theorem memWriteSeq_replace (s : State) (a : Nat) (bytes : List Byte) :
    memWriteSeq (s.replace b k p) a bytes = (memWriteSeq s a bytes).map (·.replace b k p) := by
  induction bytes generalizing s a with
  | nil => rfl
  | cons v vs ih =>
    simp only [memWriteSeq, memWrite_replace]
    cases memWrite s a v with
    | error e => rfl
    | ok t => exact ih t (a + 1)

theorem writeBlock_replace (s : State) (a : Nat) (bytes : List Byte) :
    writeBlock (s.replace b k p) a bytes = (writeBlock s a bytes).map (·.replace b k p) := by
  simp only [writeBlock, memWriteSeq_replace, show (s.replace b k p).cfg = s.cfg from rfl]
  cases checkData s.cfg a bytes.length <;> rfl

/-- A block store before NEXT commutes with the replacement, whether it completes or raises. -/
theorem settle_writeBlock_replace {s t : State} {a : Nat} {bytes : List Byte}
    (h : settle s (do let u ← writeBlock s a bytes; return u.toNext) = .next t) :
    settle (s.replace b k p) (do let u ← writeBlock (s.replace b k p) a bytes; return u.toNext) =
      .next (t.replace b k p) := by
  rw [writeBlock_replace]
  cases hw : writeBlock s a bytes with
  | error e => rw [hw] at h; cases h; rfl
  | ok u => rw [hw] at h; cases h; rfl

theorem exec_replace {i : Instr} {s t : State} (h : exec i s = .next t) (hst : .st ∉ mayWrite i)
    (hsp : .sp ∉ mayWrite i) : exec i (s.replace b k p) = .next (t.replace b k p) := by
  cases i with
  | ldStVx => simp [mayWrite] at hst
  | call | ret => simp [mayWrite] at hsp
  | cls | jp | jpV0 | ldImm | addImm | ldReg | or | and | xor | ldVxDt | addReg | sub | shr | subn | shl | ldI | addIVx
  | ldFVx | rnd | ldDtVx => cases h; rfl
  | seImm | sneImm | seReg | sneReg => cases h; exact congrArg _ (skipIf_replace b k p s _)
  | skp x =>
    by_cases hk : KeyOk s x
    · obtain rfl := exec_det h (exec_skp_ok hk)
      exact (exec_skp_ok (s := s.replace b k p) hk).trans (congrArg _ (skipIf_replace b k p s _))
    · obtain rfl := exec_det h (exec_skp_error hk)
      exact exec_skp_error (s := s.replace b k p) hk
  | sknp x =>
    by_cases hk : KeyOk s x
    · obtain rfl := exec_det h (exec_sknp_ok hk)
      exact (exec_sknp_ok (s := s.replace b k p) hk).trans (congrArg _ (skipIf_replace b k p s _))
    · obtain rfl := exec_det h (exec_sknp_error hk)
      exact exec_sknp_error (s := s.replace b k p) hk
  | ldVxK x =>
    rcases exec_ldVxK_cases h with ⟨hw, rfl⟩ | ⟨hw, rfl⟩ | ⟨key, hw, rfl⟩
    · exact exec_ldVxK_start (s := s.replace b k p) hw
    · exact exec_ldVxK_blocked hw
    · exact exec_ldVxK_deliver (s := s.replace b k p) hw
  | ldBVx x => exact settle_writeBlock_replace b k p h
  | ldMemVx x => exact settle_writeBlock_replace b k p h
  | ldVxMem x =>
    rcases exec_ldVxMem_cases h with ⟨hr, rfl⟩ | ⟨hr, rfl⟩
    · exact exec_ldVxMem_ok (s := s.replace b k p) hr
    · exact exec_ldVxMem_error (s := s.replace b k p) hr
  | drw x y n =>
    rcases exec_drw_cases h with ⟨hr, rfl⟩ | ⟨hr, rfl⟩
    · exact exec_drw_ok (s := s.replace b k p) hr
    · exact exec_drw_error (s := s.replace b k p) hr

end Replace

/-- The instructions that do not commute with the replacement, by name. -/
theorem timer_or_stack_or_neither (i : Instr) : (∃ x, i = .ldStVx x) ∨ (∃ nnn, i = .call nnn) ∨ i = .ret ∨
    (.st ∉ mayWrite i ∧ .sp ∉ mayWrite i) := by
  cases i with
  | ldStVx x => exact .inl ⟨x, rfl⟩
  | call nnn => exact .inr (.inl ⟨nnn, rfl⟩)
  | ret => exact .inr (.inr (.inl rfl))
  | _ => exact .inr (.inr (.inr (by simp [mayWrite])))

/-! ## The sound timer (R29) -/

/-- The states agree but for ST. -/
def SameButSt (s s' : State) : Prop := ∃ b, s' = s.setSt b

theorem exec_sameButSt {i : Instr} {s s' t : State} (h : SameButSt s s') (he : exec i s = .next t) :
    ∃ t', exec i s' = .next t' ∧ SameButSt t t' := by
  obtain ⟨b, rfl⟩ := h
  rcases timer_or_stack_or_neither i with ⟨x, rfl⟩ | ⟨nnn, rfl⟩ | rfl | ⟨hst, hsp⟩
  · cases he
    exact ⟨_, exec_ldStVx x _, s.readV x, rfl⟩
  · rcases exec_call_cases he with ⟨hlt, rfl⟩ | ⟨hfull, rfl⟩
    · exact ⟨_, exec_call_ok (s := s.setSt b) nnn hlt, b, rfl⟩
    · exact ⟨_, exec_call_overflow (s := s.setSt b) nnn hfull, b, rfl⟩
  · rcases exec_ret_cases he with ⟨n, hn, hs, rfl⟩ | ⟨hempty, rfl⟩
    · exact ⟨_, exec_ret_ok (s := s.setSt b) hn hs, b, rfl⟩
    · exact ⟨_, exec_ret_underflow (s := s.setSt b) hempty, b, rfl⟩
  · refine ⟨_, exec_replace b s.stack s.sp he hst hsp, b, ?_⟩
    rw [← stack_eq_of_exec he hsp, ← show t.sp = s.sp from same_of_exec he hsp]
    rfl

theorem cycleSimulation_sameButSt : CycleSimulation SameButSt where
  fault := by rintro s _ ⟨b, rfl⟩; rfl
  fetch := by rintro s _ ⟨b, rfl⟩; rfl
  wait := by rintro s _ ⟨b, rfl⟩; rfl
  setWait := by rintro s _ ⟨b, rfl⟩ z; exact ⟨b, rfl⟩
  toNext := by rintro s _ ⟨b, rfl⟩; exact ⟨b, rfl⟩
  raise := by rintro s _ ⟨b, rfl⟩ k; exact ⟨b, rfl⟩
  exec := exec_sameButSt

/-- Settles O52: differing in ST alone is a simulation of the cycle. -/
theorem soundTimerIsNeverRead : Obligations.SoundTimerIsNeverRead := by
  intro s t b o h
  obtain ⟨_, h', c, rfl⟩ := cycleSimulation_sameButSt.stepCycle ⟨b, rfl⟩ h
  exact ⟨_, h', frame_setSt t c, rfl, rfl⟩

/-! ## The unused stack entries (R28, decision D12) -/

/-- The states agree but for stack entries at or above sp. -/
def SameButUnused (s s' : State) : Prop :=
  ∃ k : Vector Word 16, s' = s.setStack k s.sp ∧ ∀ j, (h : j < 16) → j < s.sp.val → k[j] = s.stack[j]

/-- The call writes the same address at the same place, and the return pops an entry in use. -/
theorem exec_sameButUnused {i : Instr} {s s' t : State} (h : SameButUnused s s') (he : exec i s = .next t) :
    ∃ t', exec i s' = .next t' ∧ SameButUnused t t' := by
  obtain ⟨k, rfl, hk⟩ := h
  rcases timer_or_stack_or_neither i with ⟨x, rfl⟩ | ⟨nnn, rfl⟩ | rfl | ⟨hst, hsp⟩
  · cases he
    exact ⟨_, exec_ldStVx x _, k, rfl, hk⟩
  · rcases exec_call_cases he with ⟨hlt, rfl⟩ | ⟨hfull, rfl⟩
    · refine ⟨_, exec_call_ok (s := s.setStack k s.sp) nnn hlt, k.set s.sp.val (s.pc + 2), rfl, fun j hj hlt' => ?_⟩
      have hle : j < s.sp.val + 1 := hlt'
      simp only [State.setPc_stack, State.setStack_stack, Vector.getElem_set]
      split
      · rfl
      · exact hk j hj (by omega)
    · exact ⟨_, exec_call_overflow (s := s.setStack k s.sp) nnn hfull, k, rfl, hk⟩
  · rcases exec_ret_cases he with ⟨n, hn, hs, rfl⟩ | ⟨hempty, rfl⟩
    · refine ⟨_, exec_ret_ok (s := s.setStack k s.sp) hn hs, k, ?_, fun j hj hlt => ?_⟩
      · rw [State.setStack_stack, hk n hn (by omega)]; rfl
      · have hlt' : j < n := hlt
        exact hk j hj (by omega)
    · exact ⟨_, exec_ret_underflow (s := s.setStack k s.sp) hempty, k, rfl, hk⟩
  · have hsp' : t.sp = s.sp := same_of_exec he hsp
    refine ⟨_, exec_replace s.st k s.sp he hst hsp, k, ?_, fun j hj hlt => ?_⟩
    · rw [← show t.st = s.st from same_of_exec he hst, ← hsp']
      rfl
    · rw [hsp'] at hlt
      simpa only [stack_eq_of_exec he hsp] using hk j hj hlt

theorem cycleSimulation_sameButUnused : CycleSimulation SameButUnused where
  fault := by rintro s _ ⟨k, rfl, -⟩; rfl
  fetch := by rintro s _ ⟨k, rfl, -⟩; rfl
  wait := by rintro s _ ⟨k, rfl, -⟩; rfl
  setWait := by rintro s _ ⟨k, rfl, hk⟩ z; exact ⟨k, rfl, hk⟩
  toNext := by rintro s _ ⟨k, rfl, hk⟩; exact ⟨k, rfl, hk⟩
  raise := by rintro s _ ⟨k, rfl, hk⟩ f; exact ⟨k, rfl, hk⟩
  exec := exec_sameButUnused

/-- Settles O53: differing in unused entries alone is a simulation of the cycle. -/
theorem unusedStackEntriesAreUnseen : Obligations.UnusedStackEntriesAreUnseen := by
  intro s s' t o hs' hk h
  obtain ⟨_, h', k, rfl, hagree⟩ := cycleSimulation_sameButUnused.stepCycle ⟨s'.stack, hs', hk⟩ h
  exact ⟨_, h', rfl, hagree⟩

end Sys2Proof.Machine
end
